-- ==== Sys2Proof/Word.lean ====
section
/-! DEFINITION. The machine's words: the 8-bit byte, the 32-bit register word and the 512-byte block (R6, R12, R40). -/

namespace Sys2Proof

/-- The byte is 8 bits (R61). -/
abbrev Byte := BitVec 8

/-- Every register, tag and operand is 32 bits wide (R22, R40, R91). -/
abbrev Word := BitVec 32

/-- A block: 512 bytes, the unit of device I/O and the size of every buffer (R6, R16). -/
structure Block where
  bytes : Vector Byte 512
  deriving DecidableEq, Repr, Inhabited

/-- The block whose byte `j` is `f j`. -/
def Block.gen (f : Nat → Byte) : Block := ⟨⟨⟨(List.range 512).map f⟩, by simp⟩⟩

end Sys2Proof
end

