-- ==== Sys2Proof/Config.lean ====
section
/-! DEFINITION. What an instance of the hardware fixes (R6, R7, R8) and the free value of the model. -/

namespace Sys2Proof

/-- Which function an instance takes as `crc32_cksum` (R7, R173): a choice by name, because the state is plain data. -/
inductive Checksum where
  /-- The function R173 writes out (PRESUMED, G1 and D21; log entry 4). -/
  | cksum
  /-- Any other function: number `n` of those nothing is known of but what is assumed of an instance's function
  (`Machine.DetectsFlips`, R188). -/
  | other (n : Nat)
  deriving DecidableEq, Repr

/-- The functions an instance may take as `crc32_cksum` beside the one of R173 (G1: a configuration function). It has no
body: nothing can be proved of its values. -/
opaque Config.otherChecksum : Nat → List Byte → Word

/-- The parameters of one instance (R7), fixed at instantiation (R8): no step changes them. The number `N` of cache
slots is the length of the slot list of the state; the device relation and `DevErr` are the answers of the device agent
in `Machine.Input`. -/
structure Config where
  /-- `SUPPORTED_VERSION`, `1..255`, readable in `CAP[15:8]` (R7, R47; open, D10). -/
  supportedVersion : Byte
  /-- `crc32_cksum` (R7, R173; open, G1). -/
  crc : Checksum
  /-- `DEV_BLOCKS`: read only by the ideal mock device of R212. -/
  devBlocks : Nat
  /-- `ALIGN`: a power of two not above 512; no semantic effect (R7, R203). -/
  align : Nat
  /-- `DEBUG_CHECKS`: debug or release build of the host layer (R7, R299). -/
  debugChecks : Bool
  deriving DecidableEq, Repr

/-- The ranges R7 and R203 give the parameters; what R188 assumes of `crc` is `Machine.DetectsFlips`. -/
def Config.valid (c : Config) : Bool :=
  c.supportedVersion ≠ 0 && [1, 2, 4, 8, 16, 32, 64, 128, 256, 512].contains c.align

/-- FREE VALUE (U1, U2, U3: `any value`; log entries 1, 2, 3). `Config.freeByte k j` is byte `j` of the `k`-th buffer or
block whose contents the spec leaves unspecified. It has no body: nothing can be proved of its value. -/
opaque Config.freeByte : Nat → Nat → Byte

/-- FREE VALUE (DESIGN CHOICE, log entry 24). The word a host writes to a 32-bit operand register for the number `n` when `n`
does not fit it and no rule says what the command does then (`SEL` of a block number, a length prefix: R93, R122, R229). It
has no body: nothing can be proved of its value. -/
opaque Config.freeOperand : Nat → Word

/-- `BLOCK_BYTES` (R6). -/
abbrev blockBytes : Nat := 512
/-- `HEADER_BLOCK` (R6). -/
abbrev headerBlock : Nat := 0
/-- `MAX_MODELS` (R6). -/
abbrev maxModels : Nat := 64
/-- `MODEL_BLOCKS` (R6). -/
abbrev modelBlocks : Nat := 4
/-- `MODELS_START` (R6). -/
abbrev modelsStart : Nat := 4
/-- `CONFIG_BLOCK` (R6). -/
abbrev configBlock : Nat := 3
/-- `LEN_BYTES` (R6). -/
abbrev lenBytes : Nat := 4
/-- `NAMES_START` (R6). -/
abbrev namesStart : Nat := 1
/-- `NAMES_BLOCKS` (R6). -/
abbrev namesBlocks : Nat := 2
/-- `NAME_BYTES` (R6). -/
abbrev nameBytes : Nat := 16
/-- The highest block number, `0xFFFFFFFF` (R126, R210). -/
abbrev maxBlock : Nat := 0xFFFFFFFF

end Sys2Proof
end

