-- ==== Sys2Proof/Machine/Memory.lean ====
section
/-! DEFINITION. Bytes of a block, little-endian words (R13, R60), and the medium as a canonical list of cells (R51, R61). -/

namespace Sys2Proof.Machine

open Sys2Proof

/-- `LE32(b0, b1, b2, b3)` (R13). -/
def le32Read (b0 b1 b2 b3 : Byte) : Word :=
  BitVec.ofNat 32 (b0.toNat + 256 * b1.toNat + 65536 * b2.toNat + 16777216 * b3.toNat)

/-- Byte `i` of `le32(w)`: bits `8i+7 .. 8i` (R13). -/
def le32Byte (w : Word) (i : Nat) : Byte := w.extractLsb' (8 * i) 8

/-- Byte `j` of a block. -/
def blockByte (b : Block) (j : Nat) : Byte := b.bytes[j]?.getD 0

/-- Write byte `j` of a block. -/
def blockSetByte (b : Block) (j : Nat) (v : Byte) : Block := ⟨b.bytes.setIfInBounds j v⟩

/-- The little-endian word at byte offset `j` of a block (R14 `MemRead(_, j, 4)`, R60). -/
def blockWord (b : Block) (j : Nat) : Word :=
  le32Read (blockByte b j) (blockByte b (j + 1)) (blockByte b (j + 2)) (blockByte b (j + 3))

/-- Write the four bytes `le32(v)` at byte offset `j` of a block (R14 `MemWrite(_, j, 4, v)`, R60). -/
def blockSetWord (b : Block) (j : Nat) (v : Word) : Block :=
  blockSetByte (blockSetByte (blockSetByte (blockSetByte b j (le32Byte v 0)) (j + 1) (le32Byte v 1)) (j + 2) (le32Byte v 2))
    (j + 3) (le32Byte v 3)

/-- The block of 512 zero bytes (R176). -/
def zeroBlock : Block := Block.gen fun _ => 0

/-- A block whose every byte is the free value number `k` (U1, U2, U3; log entries 1 to 3). -/
def freeBlock (k : Nat) : Block := Block.gen (Config.freeByte k)

/-- The medium (R51): cells at byte address `512 * block + offset`, addresses strictly rising, none equal to
`mediumDefault`. -/
abbrev Memory := List Host.Cell

/-- What a byte of the medium that nothing has written reads as: zero, the initial contents of R212's device
(DESIGN CHOICE, unsafe; log entry 5). -/
def mediumDefault : Byte := 0

/-- The first byte address past the medium: 2^32 blocks of 512 bytes (R61). -/
abbrev mediumEnd : Nat := 2 ^ 32 * 512

/-- The canonical form: addresses strictly rising and inside the medium, no entry equal to the default. -/
def Memory.wf : Memory → Bool
  | [] => true
  | [(a, v)] => a < mediumEnd && v ≠ mediumDefault
  | (a, v) :: (a', v') :: m => a < mediumEnd && v ≠ mediumDefault && a < a' && Memory.wf ((a', v') :: m)

/-- Read one byte of the medium. -/
def Memory.read (m : Memory) (addr : Nat) : Byte :=
  match m.find? fun c => c.1 = addr with
  | some c => c.2
  | none => mediumDefault

/-- The cells of one block written at byte address `lo`: its bytes that differ from the default, in rising order. -/
def blockCells (lo : Nat) (b : Block) : Memory :=
  (List.range 512).filterMap fun j =>
    if blockByte b j = mediumDefault then none else some (lo + j, blockByte b j)

/-- `medium[blk]` (R51). -/
def Memory.readBlock (m : Memory) (blk : Nat) : Block := Block.gen fun j => Memory.read m (512 * blk + j)

/-- `medium[blk] <- b` (R211(a)). -/
def Memory.writeBlock (m : Memory) (blk : Nat) (b : Block) : Memory :=
  (m.filter fun c => c.1 < 512 * blk) ++ blockCells (512 * blk) b ++ m.filter fun c => 512 * blk + 512 ≤ c.1

/-- Write consecutive blocks from `blk` on (R210, R211(a)). -/
def Memory.writeBlocks (m : Memory) (blk : Nat) : List Block → Memory
  | [] => m
  | b :: bs => Memory.writeBlocks (Memory.writeBlock m blk b) (blk + 1) bs

end Sys2Proof.Machine
end

