-- ==== Sys2Proof/Machine/Codec.lean ====
section
/-! DEFINITION. The header codec: the model entry (R171), the live prefix (R172), the checksum (R173), on a 512-byte header
block laid out as R170 says. -/

namespace Sys2Proof.Machine

open Sys2Proof

/-- `start = w[19:0]` (R171). -/
def entryStart (w : Word) : Nat := (w.extractLsb' 0 20).toNat
/-- `len = w[23:20]` (R171). -/
def entryLen (w : Word) : Nat := (w.extractLsb' 20 4).toNat
/-- `id = w[29:24]` (R171); bits 31:30 are ignored. -/
def entryId (w : Word) : Nat := (w.extractLsb' 24 6).toNat
/-- `end(w) = start + len` (R171). -/
def entryEnd (w : Word) : Nat := entryStart w + entryLen w

/-- `mk_entry(start, len, id)` with `w[31:30] = 0` (R171). -/
def mkEntry (start len id : Nat) : Word := BitVec.ofNat 32 (start + len * 2 ^ 20 + id * 2 ^ 24)

/-- `entry(j)` (R14, R170). -/
def headerEntry (h : Block) (j : Nat) : Word := blockWord h (4 + 4 * j)

/-- The 64 entries of a header, in order (R170). -/
def headerEntries (h : Block) : List Word := (List.range maxModels).map (headerEntry h)

/-- The live entries: up to the first with `start = 0` (R172). -/
def liveEntries (h : Block) : List Word := (headerEntries h).takeWhile fun w => entryStart w ≠ 0

/-- `L(hdr)` (R172). -/
def liveCount (h : Block) : Nat := (liveEntries h).length

/-- The header with its 64 entry words replaced; bytes outside `4..259` unchanged (R170, R183). -/
def withEntries (h : Block) (ws : List Word) : Block :=
  Block.gen fun p => if 4 ≤ p ∧ p < 260 then le32Byte (ws.getD ((p - 4) / 4) 0) ((p - 4) % 4) else blockByte h p

/-- Eight steps of the bitwise CRC of R173 on a 32-bit remainder. -/
def crcShift : Nat → Word → Word
  | 0, c => c
  | n + 1, c => crcShift n (if c.msb then (c <<< (1 : Nat)) ^^^ 0x04C11DB7#32 else c <<< (1 : Nat))

/-- One byte of the CRC of R173. -/
def crcStep (c : Word) (x : Byte) : Word := crcShift 8 (c ^^^ (x.setWidth 32 <<< (24 : Nat)))

/-- `crc32_cksum`, the instance's checksum function (R7, R173): CRC-32/CKSUM without the length appended (PRESUMED, G1
and D21; log entry 4), or any other function. -/
def crc32Cksum (c : Checksum) (bs : List Byte) : Word :=
  match c with
  | .cksum => bs.foldl crcStep 0 ^^^ 0xFFFFFFFF#32
  | .other n => Config.otherChecksum n bs

/-- The byte `x` with bit `b` flipped (R188). -/
def flipBit (x : Byte) (b : Nat) : Byte := x ^^^ (1#8 <<< b)

/-- The checksum function changes with every single-bit change of its message: the assumption R188 makes on `crc32_cksum`
(PRESUMED, G1; log entry 4). -/
def DetectsFlips (c : Checksum) : Prop :=
  ∀ (before after : List Byte) (x : Byte) (b : Nat), b < 8 →
    crc32Cksum c (before ++ flipBit x b :: after) ≠ crc32Cksum c (before ++ x :: after)

/-- The 257 bytes the checksum covers: the version byte, then the entry bytes (R170, R173). -/
def checksumMessage (h : Block) : List Byte := blockByte h 0 :: (List.range 256).map fun p => blockByte h (4 + p)

/-- `cksum(hdr)` (R173). -/
def cksum (c : Checksum) (h : Block) : Word := crc32Cksum c (checksumMessage h)

/-- The stored checksum field (R170). -/
def storedChecksum (h : Block) : Word := blockWord h 508

/-- The header with a fresh checksum stored (R177, R179). -/
def withChecksum (c : Checksum) (h : Block) : Block := blockSetWord h 508 (cksum c h)

/-- The ids in use among live entries (R182, conflict C3). -/
def usedIds (h : Block) : List Nat := (liveEntries h).map entryId

/-- The lowest id not in use (R182); with fewer than 64 live entries there is one. -/
def freeId (h : Block) : Nat := ((List.range maxModels).find? fun i => !(usedIds h).contains i).getD 0

end Sys2Proof.Machine
end

