-- ==== Sys2Proof/Syntax.lean ====
section
/-! DEFINITION. The command set BCC-1: one constructor per row of spec/opcode_table.json (R11, R94), operands as R91 and R92
give them, and the 96-bit descriptor (R90). -/

namespace Sys2Proof

/-- The 22 commands, with the operand fields their format reads (R92): `k` is 8 bits, `a` and `b` are 32 bits, used
exactly as written (R93). -/
inductive Instr where
  /-- `NOP` (format Z, R163). -/
  | nop
  /-- `SEL start` (format A, R122). -/
  | sel (start : Word)
  /-- `SELX len, start` (format KA, R123). -/
  | selx (len : Byte) (start : Word)
  /-- `VRD` (format Z, R140). -/
  | vrd
  /-- `VMOD off, len` (format AB, R141). -/
  | vmod (off len : Word)
  /-- `FLUSH` (format Z, R160). -/
  | flush
  /-- `VLB off` (format A, R142). -/
  | vlb (off : Word)
  /-- `VSB off, val` (format AB, R143); only `val[7:0]` is stored. -/
  | vsb (off val : Word)
  /-- `VLW off` (format A, R144). -/
  | vlw (off : Word)
  /-- `VSW off, val` (format AB, R145). -/
  | vsw (off val : Word)
  /-- `HLD` (format Z, R178). -/
  | hld
  /-- `HVAL` (format Z, R174). -/
  | hval
  /-- `HINIT` (format Z, R175). -/
  | hinit
  /-- `HCLR` (format Z, R176). -/
  | hclr
  /-- `HSUM` (format Z, R177). -/
  | hsum
  /-- `HWB` (format Z, R179). -/
  | hwb
  /-- `HCNT` (format Z, R180). -/
  | hcnt
  /-- `HGET idx` (format K, R181). -/
  | hget (idx : Byte)
  /-- `HNEW` (format Z, R182). -/
  | hnew
  /-- `HDEL id` (format K, R183). -/
  | hdel (id : Byte)
  /-- `HLW off` (format A, R184). -/
  | hlw (off : Word)
  /-- `HSW off, val` (format AB, R185). -/
  | hsw (off val : Word)
  deriving DecidableEq, Repr

/-- One command descriptor: the three operand registers as they stand at launch (R90, R91). -/
structure Descriptor where
  cmd0 : Word
  cmd1 : Word
  cmd2 : Word
  deriving DecidableEq, Repr

end Sys2Proof
end

