-- ==== Sys2Proof/WellFormed.lean ====
section
/-! DEFINITION. The operand check an assembler of R100 can make without knowing the machine's state: the part of R96 and R292
that speaks of the operands alone. A bit vector operand cannot leave its field, so EVERY term of `Instr` has an encoding; a
term this check refuses is still a legal command, and the machine ends it with an error and none of its effect (R96). -/

namespace Sys2Proof

/-- The largest view any instance can have, in bytes: 255 slots (R7). -/
abbrev maxViewBytes : Nat := 512 * 255

/-- The operands can be in range on some instance in some state (R96, R292). -/
def Instr.wellFormed : Instr → Bool
  | .nop => true
  | .sel _ => true
  | .selx len start => len ≠ 0 && start.toNat + len.toNat ≤ maxBlock + 1
  | .vrd => true
  | .vmod off len => off.toNat + len.toNat ≤ maxViewBytes
  | .flush => true
  | .vlb off => off.toNat < maxViewBytes
  | .vsb off _ => off.toNat < maxViewBytes
  | .vlw off => off.toNat % 4 = 0 && off.toNat + 4 ≤ maxViewBytes
  | .vsw off _ => off.toNat % 4 = 0 && off.toNat + 4 ≤ maxViewBytes
  | .hld => true
  | .hval => true
  | .hinit => true
  | .hclr => true
  | .hsum => true
  | .hwb => true
  | .hcnt => true
  | .hget idx => idx.toNat < maxModels
  | .hnew => true
  | .hdel id => id.toNat < maxModels
  | .hlw off => off.toNat % 4 = 0 && off.toNat ≤ 508
  | .hsw off _ => off.toNat % 4 = 0 && off.toNat ≤ 508

end Sys2Proof
end

