-- ==== Sys2Proof/Decode.lean ====
section
/-! DEFINITION. The decoder and the encoder of the 96-bit descriptor (R90 to R95, R100). -/

namespace Sys2Proof

/-- `op = CMD0[7:0]` (R91). -/
def Descriptor.op (d : Descriptor) : Byte := d.cmd0.extractLsb' 0 8
/-- `k = CMD0[15:8]` (R91). -/
def Descriptor.k (d : Descriptor) : Byte := d.cmd0.extractLsb' 8 8
/-- `rsv = CMD0[31:16]` (R91). -/
def Descriptor.rsv (d : Descriptor) : BitVec 16 := d.cmd0.extractLsb' 16 16
/-- Operand `a = CMD1` (R91). -/
def Descriptor.a (d : Descriptor) : Word := d.cmd1
/-- Operand `b = CMD2` (R91). -/
def Descriptor.b (d : Descriptor) : Word := d.cmd2

/-- Why a descriptor selects no command (R95). Both end the command with `ILLEGAL_COMMAND`. -/
inductive Reject where
  /-- `rsv` is not zero. -/
  | reservedBits
  /-- `rsv` is zero and `op` is not in the table of R94. -/
  | unknownOpcode
  deriving DecidableEq, Repr

/-- The opcode map of R94 on the fields of a descriptor whose reserved bits are zero; fields the format does not name
are ignored (R92). -/
def decodeOp (op k : Byte) (a b : Word) : Except Reject Instr :=
  match op.toNat with
  | 0x00 => .ok .nop
  | 0x10 => .ok (.sel a)
  | 0x11 => .ok (.selx k a)
  | 0x12 => .ok .vrd
  | 0x13 => .ok (.vmod a b)
  | 0x14 => .ok .flush
  | 0x18 => .ok (.vlb a)
  | 0x19 => .ok (.vsb a b)
  | 0x1A => .ok (.vlw a)
  | 0x1B => .ok (.vsw a b)
  | 0x20 => .ok .hld
  | 0x21 => .ok .hval
  | 0x22 => .ok .hinit
  | 0x23 => .ok .hclr
  | 0x24 => .ok .hsum
  | 0x25 => .ok .hwb
  | 0x26 => .ok .hcnt
  | 0x27 => .ok (.hget k)
  | 0x28 => .ok .hnew
  | 0x29 => .ok (.hdel k)
  | 0x2A => .ok (.hlw a)
  | 0x2B => .ok (.hsw a b)
  | _ => .error .unknownOpcode

/-- Decode a descriptor (R94, R95): total, rejecting by name. -/
def decode (d : Descriptor) : Except Reject Instr :=
  if d.rsv ≠ 0 then .error .reservedBits else decodeOp d.op d.k d.a d.b

/-- `CMD0` with opcode `op`, small operand `k` and zero reserved bits (R91). -/
def encodeCmd0 (op : Nat) (k : Byte) : Word := BitVec.ofNat 32 (op + 256 * k.toNat)

/-- Encode a command as R100 writes it: fields its format does not read are 0. -/
def encode : Instr → Descriptor
  | .nop => ⟨encodeCmd0 0x00 0, 0, 0⟩
  | .sel a => ⟨encodeCmd0 0x10 0, a, 0⟩
  | .selx k a => ⟨encodeCmd0 0x11 k, a, 0⟩
  | .vrd => ⟨encodeCmd0 0x12 0, 0, 0⟩
  | .vmod a b => ⟨encodeCmd0 0x13 0, a, b⟩
  | .flush => ⟨encodeCmd0 0x14 0, 0, 0⟩
  | .vlb a => ⟨encodeCmd0 0x18 0, a, 0⟩
  | .vsb a b => ⟨encodeCmd0 0x19 0, a, b⟩
  | .vlw a => ⟨encodeCmd0 0x1A 0, a, 0⟩
  | .vsw a b => ⟨encodeCmd0 0x1B 0, a, b⟩
  | .hld => ⟨encodeCmd0 0x20 0, 0, 0⟩
  | .hval => ⟨encodeCmd0 0x21 0, 0, 0⟩
  | .hinit => ⟨encodeCmd0 0x22 0, 0, 0⟩
  | .hclr => ⟨encodeCmd0 0x23 0, 0, 0⟩
  | .hsum => ⟨encodeCmd0 0x24 0, 0, 0⟩
  | .hwb => ⟨encodeCmd0 0x25 0, 0, 0⟩
  | .hcnt => ⟨encodeCmd0 0x26 0, 0, 0⟩
  | .hget k => ⟨encodeCmd0 0x27 k, 0, 0⟩
  | .hnew => ⟨encodeCmd0 0x28 0, 0, 0⟩
  | .hdel k => ⟨encodeCmd0 0x29 k, 0, 0⟩
  | .hlw a => ⟨encodeCmd0 0x2A 0, a, 0⟩
  | .hsw a b => ⟨encodeCmd0 0x2B 0, a, b⟩

/-- The descriptor whose bits are the low `nbits` of `w`, the first word in bits 31..0 (R90). -/
def Descriptor.ofTableWord (nbits w : Nat) : Descriptor :=
  let v := w % 2 ^ nbits
  ⟨BitVec.ofNat 32 v, BitVec.ofNat 32 (v / 2 ^ 32), BitVec.ofNat 32 (v / 2 ^ 64)⟩

/-- The host's question about one row of spec/opcode_table.json: the instruction this decoder reads. -/
def decodeTableWord (nbits w : Nat) : Option Instr :=
  match decode (Descriptor.ofTableWord nbits w) with
  | .ok i => some i
  | .error _ => none

end Sys2Proof
end

