-- ==== Sys2Proof/Machine/State.lean ====
section
/-! DEFINITION. The state of the machine as plain data: the controller's state (R20 to R33, R40 to R50), the medium of the device
agent (R51), the state of the host software (R52 to R54), and the model's own fields (free value counter, device log, inputs,
last bus read). -/

namespace Sys2Proof.Machine

open Sys2Proof

/-- One cache slot: its tag array fields (R22) and its 512 bytes of data RAM (R21). -/
structure Slot where
  valid : Bool
  tag : Word
  dirty : Bool
  data : Block
  deriving DecidableEq, Repr, Inhabited

/-- The current-view register (R25). -/
structure View where
  valid : Bool
  base : Nat
  cnt : Nat
  start : Word
  deriving DecidableEq, Repr

/-- Results of commands and of host sequences (R285). -/
inductive Err where
  | ok | io | hdrMissing | hdrVersion | hdrChecksum | tooManyModels | seekOutOfBounds | fileFull | modelNameOverflow
  | unexpectedEof | illegalCommand | badOperand | noView | notValidated | cancelled
  deriving DecidableEq, Repr

/-- The kind of a device request (R201). -/
inductive ReqKind where
  | rd | wr
  deriving DecidableEq, Repr

/-- The buffer a request covers: slots from `first` on, or the header buffer (R32, R210). -/
inductive Buffer where
  | slots (first : Nat)
  | header
  deriving DecidableEq, Repr

/-- Where the suspended command goes on (R32): the loop position, the values its rule has computed so far, and with them
which command it is; its operands also stand in `CMD0` to `CMD2`, which cannot change while `busy` (R41, R42). -/
inductive Cont where
  /-- `SEL`/`SELX` in `Construct(base, cnt, start)`, at the write-back of slot `j`, `left` slots still to come (R121). -/
  | select (base cnt : Nat) (start : Word) (j left : Nat)
  /-- `VRD` at the write-back of slot `j` (R140). -/
  | fillWrite (j left : Nat)
  /-- `VRD` at the read into slot `j` (R140). -/
  | fillRead (j left : Nat)
  /-- `FLUSH` at the write of the run of `r` slots from `i`; `fuel` bounds the loop passes left (R160). -/
  | flush (i r fuel runs blocks : Nat)
  /-- `HLD` at its read (R178). -/
  | headerLoad
  /-- `HWB` at its write, `c` the checksum stored (R179). -/
  | headerStore (c : Word)
  deriving DecidableEq, Repr

/-- A device request with its continuation (R32, R201). -/
structure Request where
  kind : ReqKind
  blk : Word
  cnt : Nat
  buf : Buffer
  cont : Cont
  deriving DecidableEq, Repr

/-- The sequencer (R32, R208). -/
inductive Seq where
  | idle
  | run
  | wait (r : Request)
  deriving DecidableEq, Repr

/-- How a wait for the device ends (R15, R206, R207). -/
inductive Reply where
  | ok
  | err (code : Word)
  | cancelled
  deriving DecidableEq, Repr

/-- One ended device transaction, for the model's device log (R201, R70; log entry 9): `data` is what a write sent. -/
structure Txn where
  kind : ReqKind
  blk : Word
  cnt : Nat
  data : List Block
  reply : Reply
  deriving DecidableEq, Repr

/-- The device agent's answer to the outstanding request (R202, R211(e), R212). -/
inductive DevAnswer where
  /-- `rsp_err = 0`. -/
  | ok
  /-- `rsp_err = 1` with `rsp_code`. -/
  | err (code : Word)
  /-- The device answers as the ideal mock device with `DEV_BLOCKS` blocks does (R212). -/
  | ideal
  deriving DecidableEq, Repr

/-- `whence` of `File.seek` (R224). -/
inductive Whence where
  | start | fromEnd | current
  deriving DecidableEq, Repr

/-- The host's state of an open File (R52; `unflushed` of R220). `stop` is the document's exclusive `end`. -/
structure File where
  start : Nat
  stop : Nat
  len : Nat
  cursor : Nat
  resized : Bool
  unflushed : Bool
  deriving DecidableEq, Repr

/-- The host sequences (pseudo-instructions of R101), the discard of an open File (R231) and the disposal of the
Filesystem instance (R54). Host quantities are unbounded (45_host_file.md), the `id` of `delete_model` among them (R258). -/
inductive HostSeq where
  | fileCreate (start stop : Nat)
  | fileOpen (start stop : Nat)
  | fileLen
  | fileSeek (whence : Whence) (n : Int)
  | fileRead (n : Nat)
  | fileReadExact (n : Nat)
  | fileWrite (buf : List Byte)
  | fileTruncate
  | fileFlush
  | fileClose
  | fileDiscard
  | fsNew
  | fsNewEmpty
  | fsReadConfig
  | fsWriteConfig (bytes : List Byte)
  | fsModelNames
  | fsModel (id : Nat)
  | fsNewModel (name : List Byte)
  | fsDeleteModel (id : Nat)
  | fsFlush
  | fsDispose
  deriving DecidableEq, Repr

/-- What the last host sequence returned (R220 to R260). -/
inductive HostResult where
  /-- No sequence has run. -/
  | none
  /-- The sequence waits at a suspension point; `State.job` says how it goes on (log entry 12). -/
  | pending
  /-- A reset ended the sequence at its suspension point (log entry 18). -/
  | abandoned
  | done
  | num (n : Nat)
  | bytes (bs : List Byte)
  | names (ns : List (Nat × List Byte))
  /-- `Filesystem.model` found no such model (R256). -/
  | absent
  | err (e : Err)
  /-- `InitError` of `Filesystem.new` (R251, R304). -/
  | initError (e : Err)
  deriving DecidableEq, Repr

/-- A host sequence at a suspension point (R9, R101, R208): which one, the host's File when it was called, and the results
(`RES0`, `RES1`) of the commands of it that have ended, oldest first. What the host does next is a function of these
(`Machine.continuation`). -/
structure Job where
  seq : HostSeq
  file : Option File
  results : List (Word × Word)
  deriving DecidableEq, Repr

/-- What reaches the controller from outside, in the order it happens (R9, R40, R46, R209, R310). -/
inductive Input where
  /-- A host store of `width` bytes at a register offset (R40). -/
  | write (width off : Nat) (v : Word)
  /-- A host load of `width` bytes at a register offset (R40). -/
  | read (width off : Nat)
  /-- A hardware reset (R310). -/
  | hardReset
  /-- The device answers (R202). -/
  | device (a : DevAnswer)
  /-- The device answers in the same instant as the host writes `v` to `CTRL` (R209, R295). -/
  | ctrlWith (v : Word) (a : DevAnswer)
  /-- The host software runs a host sequence (R4, R101). -/
  | call (q : HostSeq)
  deriving DecidableEq, Repr

/-- The state. The spec's own state first, then the host software's, then the model's own fields. -/
structure State where
  /-- The instance's parameters (R7, R8); no step changes them. -/
  cfg : Config
  /-- The `N` cache slots: tag array and data RAM (R21, R22); `N` is the length. -/
  slots : List Slot
  /-- The current-view register (R25). -/
  view : View
  /-- The header buffer `hdr[0..511]` (R27). -/
  hdr : Block
  /-- `hdr_validated` (R28). -/
  hdrValidated : Bool
  /-- `CMD0` (R41). -/
  cmd0 : Word
  /-- `CMD1` (R42). -/
  cmd1 : Word
  /-- `CMD2` (R42). -/
  cmd2 : Word
  /-- `RES0` (R44). -/
  res0 : Word
  /-- `RES1` (R44). -/
  res1 : Word
  /-- `ERRINFO` (R45). -/
  errInfo : Word
  /-- `STATUS.busy` (R43). -/
  busy : Bool
  /-- `STATUS.done` (R43). -/
  done : Bool
  /-- `STATUS.ovr` (R43). -/
  ovr : Bool
  /-- `STATUS.err` (R43, R285). -/
  err : Err
  /-- The sequencer and its in-flight request (R32). -/
  seq : Seq
  /-- The medium of the device agent (R51). -/
  medium : Memory
  /-- The host's open File, if any: `file_open` is its presence (R52, R53). -/
  file : Option File
  /-- The host's mount state: a Filesystem instance exists (R54). No command reads it. -/
  mounted : Bool
  /-- The host sequence that waits for a command of it to end, if any (R9, R101; log entry 12). -/
  job : Option Job
  /-- MODEL's own: what the last host sequence returned (log entry 12). -/
  hostResult : HostResult
  /-- MODEL's own: the value the last host load of a register returned (log entry 10). -/
  readData : Word
  /-- MODEL's own: how many free buffers or blocks have been drawn (log entries 1 to 3). -/
  draws : Nat
  /-- MODEL's own: the device transactions that have ended, oldest first (log entry 9). -/
  devLog : List Txn
  /-- MODEL's own: what the host and the device do next (log entry 6). -/
  inputs : List Input
  deriving DecidableEq, Repr

/-- Why the machine stops. No command of the controller raises a fault: every error of a command is a result (R284). -/
inductive Fault where
  /-- The host program aborts: a File with unflushed changes is discarded while `DEBUG_CHECKS` holds (R231, R299; U11:
  `stuck`). Raised by the host sequence `fileDiscard` alone. Safe: the spec stops there too. -/
  | hostAborted
  deriving DecidableEq, Repr

/-- Why a step has no meaning. No command of the controller refuses; the host sequences do where the spec's file 93 says
`refuse`. -/
inductive Refusal where
  /-- An instruction that has no meaning yet. Raised by no arm: every command has its meaning. Safe. -/
  | notModelled (mnemonic : String)
  /-- A sequence that is not one of the open File's is called while a File is open (R53, U7: `refuse`). Raised by the host
  sequences. Safe. -/
  | fileAlreadyOpen
  /-- A File sequence is called and no File is open (R220: there is no handle). Raised by the host sequences. Safe. -/
  | noOpenFile
  /-- A host sequence is called while a command is in execution: a second user (R322, U7: `refuse`). Raised by the host
  sequences. Safe. -/
  | hostBusy
  /-- `File.open` or `read_config` finds a stored length above the region's capacity (R253, R319, U4: `refuse`). Raised by
  the host sequences. Safe. -/
  | storedLengthTooLarge
  deriving DecidableEq, Repr

/-- An Empty slot of a fresh cache whose RAM holds free value `k` (R50, U1). -/
def Slot.fresh (k : Nat) : Slot := { valid := false, tag := 0, dirty := false, data := Block.gen (Config.freeByte k) }

/-- The view register with nothing selected (R50). -/
def View.none : View := { valid := false, base := 0, cnt := 0, start := 0 }

/-- An instance with parameters `c` and `n` slots right after power-on (R50, R310): nothing on the medium differs from
the default, and every buffer holds a free value of its own. -/
def State.powerOn (c : Config) (n : Nat) : State :=
  { cfg := c
    slots := (List.range n).map Slot.fresh
    view := View.none
    hdr := Block.gen (Config.freeByte n)
    hdrValidated := false
    cmd0 := 0, cmd1 := 0, cmd2 := 0, res0 := 0, res1 := 0, errInfo := 0
    busy := false, done := false, ovr := false, err := .ok
    seq := .idle
    medium := []
    file := Option.none
    mounted := false
    job := Option.none
    hostResult := .none
    readData := 0
    draws := n + 1
    devLog := []
    inputs := [] }

/-- The instance the model's reset state is of: `N = 2` is the document's production value (R7); `SUPPORTED_VERSION = 1` and
R173's checksum function are the test vectors' instantiation (D10, G1; PRESUMED, log entry 4); the rest is the model's
choice (DESIGN CHOICE, log entry 7). -/
def productionConfig : Config :=
  { supportedVersion := 1, crc := .cksum, devBlocks := 2 ^ 32, align := 512, debugChecks := false }

/-- The machine right after reset (R50). -/
def State.reset : State := State.powerOn productionConfig 2

end Sys2Proof.Machine
end

