-- ==== Sys2Proof/Machine/Flags.lean ====
section
/-! DEFINITION. The status word, the error codes and every register the host can read (R40 to R49, R285), and the request word
of the device port (R201). There are no arithmetic condition codes (R30). -/

namespace Sys2Proof.Machine

open Sys2Proof

/-- The numeric code of a result (R285). -/
def errCode : Err → Nat
  | .ok => 0
  | .io => 1
  | .hdrMissing => 2
  | .hdrVersion => 3
  | .hdrChecksum => 4
  | .tooManyModels => 5
  | .seekOutOfBounds => 6
  | .fileFull => 7
  | .modelNameOverflow => 8
  | .unexpectedEof => 9
  | .illegalCommand => 16
  | .badOperand => 17
  | .noView => 18
  | .notValidated => 19
  | .cancelled => 20

/-- A flag as the bit of weight `2^i`. -/
def flagBit (b : Bool) (i : Nat) : Nat := if b then 2 ^ i else 0

/-- `STATUS` (R43): busy, done, ovr, hdr_validated, view.valid in bits 0 to 4, `err` in bits 15:8. -/
def statusWord (s : State) : Word :=
  BitVec.ofNat 32 (flagBit s.busy 0 + flagBit s.done 1 + flagBit s.ovr 2 + flagBit s.hdrValidated 3 + flagBit s.view.valid 4
    + 256 * errCode s.err)

/-- `CAP` (R47): `N`, `SUPPORTED_VERSION`, interface revision 1. -/
def capWord (s : State) : Word :=
  BitVec.ofNat 32 (s.slots.length % 256 + 256 * s.cfg.supportedVersion.toNat + 65536 * 1)

/-- `VIEW` (R48): base, cnt and the valid bit; 0 when there is no view. -/
def viewWord (s : State) : Word :=
  if s.view.valid then BitVec.ofNat 32 (s.view.base % 256 + 256 * (s.view.cnt % 256) + 2 ^ 31) else 0

/-- `VSTART` (R48): 0 when there is no view. -/
def vstartWord (s : State) : Word := if s.view.valid then s.view.start else 0

/-- `TST[i]` (R40): bit 0 valid, bit 1 dirty. -/
def tstWord (sl : Slot) : Word := BitVec.ofNat 32 (flagBit sl.valid 0 + flagBit sl.dirty 1)

/-- The tag array window at offset `0x100 + 8*i` and `0x104 + 8*i` (R40, R49); 0 past slot `N-1` (an unlisted offset). -/
def tagWindow (s : State) (off : Nat) : Word :=
  match s.slots[(off - 0x100) / 8]? with
  | some sl => if (off - 0x100) % 8 = 0 then sl.tag else tstWord sl
  | none => 0

/-- A host load of `width` bytes at offset `off` (R40): 32-bit aligned loads of listed offsets read the register; all
others read 0. `CTRL` reads 0 (R46). -/
def readReg (s : State) (width off : Nat) : Word :=
  if width ≠ 4 ∨ off % 4 ≠ 0 then 0
  else if 0x100 ≤ off then tagWindow s off
  else match off with
    | 0x00 => s.cmd0
    | 0x04 => s.cmd1
    | 0x08 => s.cmd2
    | 0x0C => statusWord s
    | 0x10 => s.res0
    | 0x14 => s.res1
    | 0x18 => s.errInfo
    | 0x20 => viewWord s
    | 0x24 => vstartWord s
    | 0x28 => capWord s
    | _ => 0

/-- The 64-bit request word of R201, for logging: block number, count, kind. -/
def requestWord (r : Request) : BitVec 64 :=
  BitVec.ofNat 64 (r.blk.toNat + 2 ^ 32 * (r.cnt % 256) + flagBit (r.kind = .wr) 40)

end Sys2Proof.Machine
end

