-- ==== Sys2Proof/Machine/Ops.lean ====
section
/-! DEFINITION. The named operations of the machine: slots, the end of a command (the spec's `return` and `raise`, R284, the one
shared operation that reports an error), reset (R310), and the device transaction (R206, R207, R209, R211). -/

namespace Sys2Proof.Machine

open Sys2Proof

/-! ### Slots (R21, R22) -/

/-- A slot by number; no rule names a slot outside `0..N-1` (log entry 8). -/
def State.slot (s : State) (i : Nat) : Slot := s.slots[i]?.getD default

/-- Replace slot `i`. -/
def State.setSlot (s : State) (i : Nat) (sl : Slot) : State := { s with slots := s.slots.set i sl }

/-- `caches(i, b)` (R14). -/
def State.caches (s : State) (i b : Nat) : Bool := (s.slot i).valid && (s.slot i).tag.toNat = b

/-- `slot[i].valid = 1 and slot[i].dirty = 1`. -/
def State.dirtyAt (s : State) (i : Nat) : Bool := (s.slot i).valid && (s.slot i).dirty

/-- `slot[i].dirty <- 0`. -/
def State.cleanSlot (s : State) (i : Nat) : State := s.setSlot i { s.slot i with dirty := false }

/-- `slot[i].valid <- 0`. -/
def State.invalidateSlot (s : State) (i : Nat) : State := s.setSlot i { s.slot i with valid := false }

/-- `slot[i].tag <- b ; slot[i].valid <- 1 ; slot[i].dirty <- d` (R140, R141). -/
def State.tagSlot (s : State) (i : Nat) (b : Word) (d : Bool) : State :=
  s.setSlot i { s.slot i with tag := b, valid := true, dirty := d }

/-- Put a block into the data RAM of slot `i`; the tag array is not touched (R21). -/
def State.setSlotData (s : State) (i : Nat) (b : Block) : State := s.setSlot i { s.slot i with data := b }

/-- `slot[i+q].dirty <- 0` for `q = 0 .. r-1` (R160). -/
def State.cleanRun (s : State) (i : Nat) : Nat → State
  | 0 => s
  | r + 1 => State.cleanRun (s.cleanSlot i) (i + 1) r

/-- The block number `start + q` as a tag; the issuing rules keep it below 2^32 (R126, R210). -/
def blockPlus (start : Word) (q : Nat) : Word := BitVec.ofNat 32 (start.toNat + q)

/-- Count up from `n` while `p` holds, at most `fuel` times. -/
def countUp (p : Nat → Bool) : Nat → Nat → Nat
  | 0, n => n
  | fuel + 1, n => if p n then countUp p fuel (n + 1) else n

/-- The least `i < n` with `p i`: the search of R122 and R123, ties to the lowest slot (R125). -/
def lowest (n : Nat) (p : Nat → Bool) : Option Nat := (List.range n).find? p

/-! ### The end of a command (R280 step 5, R284) -/

/-- Report and end: `err`, `RES0`, `RES1` written, `busy <- 0`, `done <- 1`, `seq <- Idle` (R280, R44). -/
def State.finish (s : State) (e : Err) (r0 r1 : Word) : State :=
  { s with err := e, res0 := r0, res1 := r1, busy := false, done := true, seq := .idle }

/-- `return Ok(r0, r1)` (R14). -/
def State.ret (s : State) (r0 r1 : Word) : State := s.finish .ok r0 r1

/-- `raise E` with no values: `RES0 <- 0`, `RES1 <- 0` (R284, R44). -/
def State.raise (s : State) (e : Err) : State := s.finish e 0 0

/-- `raise IO(e)`: `ERRINFO <- e` as well (R45, R284, R286). -/
def State.raiseIo (s : State) (code : Word) : State := { s.raise .io with errInfo := code }

/-! ### Device transactions (R206, R207, R211) -/

/-- The blocks a write sends: the data of slots `i .. i+cnt-1` in order, or the header buffer (R210). -/
def State.source (s : State) (r : Request) : List Block :=
  match r.buf with
  | .slots i => (List.range r.cnt).map fun q => (s.slot (i + q)).data
  | .header => [s.hdr]

/-- Put blocks into slots `i, i+1, ...`. -/
def State.fillSlots (s : State) (i : Nat) : List Block → State
  | [] => s
  | b :: bs => State.fillSlots (s.setSlotData i b) (i + 1) bs

/-- Put blocks into the buffer of a request (R206). -/
def State.deliver (s : State) (r : Request) (bs : List Block) : State :=
  match r.buf with
  | .slots i => s.fillSlots i bs
  | .header => { s with hdr := bs.headD default }

/-- The `n` blocks of the medium from `blk` on (R211(b)). -/
def State.mediumBlocks (s : State) (blk n : Nat) : List Block :=
  (List.range n).map fun q => Memory.readBlock s.medium (blk + q)

/-- The next `n` free blocks (U1, U2, U3). -/
def State.freeBlocks (s : State) (n : Nat) : List Block := (List.range n).map fun q => freeBlock (s.draws + q)

/-- A successful transaction (R206(a), R207(a), R211(a), R211(b)). -/
def State.transfer (s : State) (r : Request) : State :=
  match r.kind with
  | .rd => s.deliver r (s.mediumBlocks r.blk.toNat r.cnt)
  | .wr => { s with medium := Memory.writeBlocks s.medium r.blk.toNat (s.source r) }

/-- The destination buffer after a read that failed or was cancelled: free (U2). A write leaves its buffer alone (R207). -/
def State.spoilBuffer (s : State) (r : Request) : State :=
  match r.kind with
  | .rd => { s.deliver r (s.freeBlocks r.cnt) with draws := s.draws + r.cnt }
  | .wr => s

/-- The addressed blocks of the medium after a write that failed or was aborted: free (R211(c), U3). A read leaves the
medium alone (R211(d)). -/
def State.spoilMedium (s : State) (r : Request) : State :=
  match r.kind with
  | .rd => s
  | .wr => { s with medium := Memory.writeBlocks s.medium r.blk.toNat (s.freeBlocks r.cnt), draws := s.draws + r.cnt }

/-- Note an ended transaction in the device log (log entry 9). -/
def State.logged (s : State) (r : Request) (rep : Reply) : State :=
  { s with devLog := s.devLog ++ [⟨r.kind, r.blk, r.cnt, if r.kind = .wr then s.source r else [], rep⟩] }

/-- The device answers request `r` with `a`: what the answer says, and the state it leaves. The ideal mock device stores
what it acknowledges, fails only a request that passes its last block, with code 1 and the medium unchanged (R212). -/
def State.answer (s : State) (r : Request) : DevAnswer → Reply × State
  | .ok => (.ok, (s.logged r .ok).transfer r)
  | .err e => (.err e, ((s.logged r (.err e)).spoilBuffer r).spoilMedium r)
  | .ideal =>
    if r.blk.toNat + r.cnt ≤ s.cfg.devBlocks then (.ok, (s.logged r .ok).transfer r)
    else (.err 1, (s.logged r (.err 1)).spoilBuffer r)

/-- The sequencer withdraws request `r` (R209, R213): what the buffer and the medium hold is as after a failure (U2, U3). -/
def State.withdraw (s : State) (r : Request) : State := ((s.logged r .cancelled).spoilBuffer r).spoilMedium r

/-- `CTRL.cancel` as written (R46). -/
def ctrlCancel (v : Word) : Bool := v.getLsbD 0
/-- `CTRL.reset` as written (R46). -/
def ctrlReset (v : Word) : Bool := v.getLsbD 1

/-- How the wait for request `r` ends, if the next input ends it (R15): an answer, or a cancel; a cancel beats an answer of
the same instant (R209), a reset beats both (R46) and is left for the host's store to perform. -/
def State.reply (s : State) (r : Request) : Option (Reply × State) :=
  match s.inputs with
  | .device a :: rest => some ({ s with inputs := rest }.answer r a)
  | .write width off v :: rest =>
    if width = 4 ∧ off = 0x1C ∧ ctrlCancel v ∧ ¬ ctrlReset v then some (.cancelled, { s with inputs := rest }.withdraw r)
    else none
  | .ctrlWith v a :: rest =>
    if ctrlReset v then none
    else if ctrlCancel v then some (.cancelled, { s with inputs := rest }.withdraw r)
    else some ({ s with inputs := rest }.answer r a)
  | _ => none

/-- The three arms after a suspension point (R206, R207): go on, `raise IO(e)`, `raise CANCELLED`. -/
def settle (rep : Reply) (s : State) (k : State → State) : State :=
  match rep with
  | .ok => k s
  | .err e => s.raiseIo e
  | .cancelled => s.raise .cancelled

/-- A `DevRead` or `DevWrite` line (R206, R207): a suspension point. If the next input ends the wait the command goes on in
the same step (log entry 6); otherwise the sequencer stays in `Wait(r)` (R208). -/
def State.await (s : State) (r : Request) (k : State → State) : State :=
  match s.reply r with
  | none => { s with seq := .wait r }
  | some (rep, t) => settle rep t k

/-! ### Reset (R50, R310 to R312) -/

/-- A slot after reset: Empty, its RAM the free value number `k` (R50, U1). -/
def freshSlot (k : Nat) : Slot := { valid := false, tag := 0, dirty := false, data := freeBlock k }

/-- Withdraw the outstanding request, if there is one (R312). -/
def State.withdrawAny (s : State) : State :=
  match s.seq with
  | .wait r => s.withdraw r
  | _ => s

/-- Every piece of controller state at its reset value (R50); buffers hold free values (U1); the medium, the parameters and
what is not the controller's stay. -/
def State.clearController (s : State) : State :=
  { s with
    slots := (List.range s.slots.length).map fun i => freshSlot (s.draws + i)
    view := { valid := false, base := 0, cnt := 0, start := 0 }
    hdr := freeBlock (s.draws + s.slots.length)
    draws := s.draws + s.slots.length + 1
    hdrValidated := false
    cmd0 := 0, cmd1 := 0, cmd2 := 0, res0 := 0, res1 := 0, errInfo := 0
    busy := false, done := false, ovr := false, err := .ok
    seq := .idle }

/-- A reset ends the host's mount (R54), and a host sequence it interrupts ends there: the command it waits for never
reports (R312; DESIGN CHOICE, log entry 18). -/
def State.abandonSequence (s : State) : State :=
  { s with mounted := false, job := none, hostResult := if s.job.isSome then .abandoned else s.hostResult }

/-- A hardware reset or a store of 1 to `CTRL.reset` (R310): an outstanding transaction is withdrawn and nothing is
reported (R312). -/
def State.performReset (s : State) : State := s.withdrawAny.clearController.abandonSequence

end Sys2Proof.Machine
end

