-- ==== Sys2Proof/Machine/Operands.lean ====
section
/-! DEFINITION. Operand forms: block numbers, view byte offsets, header byte offsets, directory indices and ids, with the range
checks of R292; used as written, never scaled or sign-extended (R93). -/

namespace Sys2Proof.Machine

open Sys2Proof

/-- Bytes in the current view: `512 * view.cnt`. -/
def State.viewBytes (s : State) : Nat := blockBytes * s.view.cnt

/-- A byte offset inside the view (R142, R143). -/
def byteInView (s : State) (off : Word) : Bool := off.toNat < s.viewBytes

/-- An aligned word offset inside the view (R144, R145, R62); the sum is not wrapped. -/
def wordInView (s : State) (off : Word) : Bool := off.toNat % 4 = 0 && off.toNat + 4 ≤ s.viewBytes

/-- A byte range inside the view (R141); the sum is not wrapped. -/
def rangeInView (s : State) (off len : Word) : Bool := off.toNat + len.toNat ≤ s.viewBytes

/-- An aligned word offset inside the header buffer (R184, R185). -/
def wordInHeader (off : Word) : Bool := off.toNat % 4 = 0 && off.toNat ≤ 508

/-- A directory index or model id (R181, R183). -/
def inDirectory (k : Byte) : Bool := k.toNat < maxModels

/-- The slot that holds view byte `off` (R14). -/
def State.viewSlot (s : State) (off : Nat) : Nat := s.view.base + off / blockBytes

/-- `need(j)` (R14, R26). -/
def State.need (s : State) (j : Nat) : Nat := s.view.start.toNat + (j - s.view.base)

/-- `MemRead(VIEW, off, 1)` (R14). -/
def State.viewByte (s : State) (off : Nat) : Byte := blockByte (s.slot (s.viewSlot off)).data (off % blockBytes)

/-- `MemRead(VIEW, off, 4)` (R14); `off` is aligned, so the word lies in one slot (R63). -/
def State.viewLoad (s : State) (off : Nat) : Word := blockWord (s.slot (s.viewSlot off)).data (off % blockBytes)

/-- `MemWrite(VIEW, off, 1, v)` (R14): data bytes only (R147). -/
def State.setViewByte (s : State) (off : Nat) (v : Byte) : State :=
  s.setSlotData (s.viewSlot off) (blockSetByte (s.slot (s.viewSlot off)).data (off % blockBytes) v)

/-- `MemWrite(VIEW, off, 4, v)` (R14): data bytes only (R147). -/
def State.setViewWord (s : State) (off : Nat) (v : Word) : State :=
  s.setSlotData (s.viewSlot off) (blockSetWord (s.slot (s.viewSlot off)).data (off % blockBytes) v)

end Sys2Proof.Machine
end

