-- ==== Sys2Proof/Machine/Select.lean ====
section
/-! DEFINITION. Slot selection: `Construct`, `SEL`, `SELX` (R120 to R126). -/

namespace Sys2Proof.Machine

open Sys2Proof

/-- The write-back request of slot `j`: one block, its tag (R121, R140; D16). -/
def State.writeBackOf (s : State) (j : Nat) (k : Cont) : Request :=
  { kind := .wr, blk := (s.slot j).tag, cnt := 1, buf := .slots j, cont := k }

/-- Slot `j` stands for another block than `want` (R121). -/
def State.mismatched (s : State) (j want : Nat) : Bool := (s.slot j).valid && (s.slot j).tag.toNat ≠ want

/-- `view <- (1, base, cnt, start); return Ok(cnt, base)` (R120). -/
def State.loadView (s : State) (base cnt : Nat) (start : Word) : State :=
  { s with view := { valid := true, base := base, cnt := cnt, start := start } }.ret (BitVec.ofNat 32 cnt) (BitVec.ofNat 32 base)

/-- The loop of `Construct(base, cnt, start)` from slot `j` on, `left` slots to go (R121), then the end of the command
(R120). -/
def constructLoop (base cnt : Nat) (start : Word) : Nat → Nat → State → State
  | 0, _, s => s.loadView base cnt start
  | left + 1, j, s =>
    if s.mismatched j (start.toNat + (j - base)) then
      if (s.slot j).dirty then
        s.await (s.writeBackOf j (.select base cnt start j left)) fun t =>
          constructLoop base cnt start left (j + 1) ((t.cleanSlot j).invalidateSlot j)
      else constructLoop base cnt start left (j + 1) (s.invalidateSlot j)
    else constructLoop base cnt start left (j + 1) s

/-- `Construct(base, cnt, start)` (R121) and what `SEL` and `SELX` do after it (R120). -/
def State.construct (s : State) (base cnt : Nat) (start : Word) : State :=
  constructLoop base cnt start cnt base { s with view := { s.view with valid := false } }

/-- Forward extension of a hit at slot `i` (R122 step 1): how many slots cache `start, start+1, ...`. -/
def State.hitLength (s : State) (i : Nat) (start : Word) : Nat :=
  countUp (fun c => i + c < s.slots.length && start.toNat + c ≤ maxBlock && s.caches (i + c) (start.toNat + c))
    s.slots.length 1

/-- The first slot `i < n` that caches the block before `start`, if there is such a block (R122, R123 step 2; R126). -/
def State.predecessor (s : State) (n : Nat) (start : Word) : Option Nat :=
  if 1 ≤ start.toNat then lowest n fun i => s.caches i (start.toNat - 1) else none

/-- `(base, cnt)` of `SEL start` (R122). -/
def State.selPlan (s : State) (start : Word) : Nat × Nat :=
  match lowest s.slots.length fun i => s.caches i start.toNat with
  | some i => (i, s.hitLength i start)
  | none =>
    match s.predecessor (s.slots.length - 1) start with
    | some i => (i + 1, 1)
    | none => (0, 1)

/-- `base` of `SELX len, start` (R123), `len` in range. -/
def State.selxBase (s : State) (len : Nat) (start : Word) : Nat :=
  match lowest (s.slots.length - len + 1) fun i => s.caches i start.toNat with
  | some i => i
  | none =>
    match s.predecessor (s.slots.length - len) start with
    | some i => i + 1
    | none => 0

/-- `SEL start` (R122). -/
def execSel (start : Word) (s : State) : Host.Outcome State Fault Refusal :=
  .next (s.construct (s.selPlan start).1 (s.selPlan start).2 start)

/-- The operand check of `SELX` (R123, R292). -/
def State.selxInRange (s : State) (len : Byte) (start : Word) : Bool :=
  len.toNat ≠ 0 && len.toNat ≤ s.slots.length && start.toNat + len.toNat - 1 ≤ maxBlock

/-- `SELX len, start` (R123). -/
def execSelx (len : Byte) (start : Word) (s : State) : Host.Outcome State Fault Refusal :=
  .next <|
    if s.selxInRange len start then s.construct (s.selxBase len.toNat start) len.toNat start else s.raise .badOperand

end Sys2Proof.Machine
end

