-- ==== Sys2Proof/Machine/ViewOps.lean ====
section
/-! DEFINITION. View operations: `VRD`, `VMOD`, `VLB`, `VSB`, `VLW`, `VSW` (R140 to R148). -/

namespace Sys2Proof.Machine

open Sys2Proof

/-- The common check of R146: no view, no effect. -/
def State.withView (s : State) (k : State → State) : State := if s.view.valid then k s else s.raise .noView

/-- The read request that fills slot `j` (R140; D16). -/
def State.fillOf (s : State) (j : Nat) (k : Cont) : Request :=
  { kind := .rd, blk := BitVec.ofNat 32 (s.need j), cnt := 1, buf := .slots j, cont := k }

/-- After the fill of slot `j` (R140): tagged to the block it must hold, clean. -/
def State.filled (s : State) (j : Nat) : State := s.tagSlot j (BitVec.ofNat 32 (s.need j)) false

/-- The loop of `VRD` from slot `j` on, `left` slots to go (R140). -/
def fillLoop : Nat → Nat → State → State
  | 0, _, s => s.ret (BitVec.ofNat 32 s.view.cnt) 0
  | left + 1, j, s =>
    let refill (t : State) : State :=
      (t.invalidateSlot j).await ((t.invalidateSlot j).fillOf j (.fillRead j left)) fun u => fillLoop left (j + 1) (u.filled j)
    if s.caches j (s.need j) then fillLoop left (j + 1) s
    else if s.dirtyAt j then s.await (s.writeBackOf j (.fillWrite j left)) fun t => refill (t.cleanSlot j)
    else refill s

/-- `VRD` from the emptying of slot `j` on (R140): the part after its write-back. -/
def refillFrom (left j : Nat) (t : State) : State :=
  (t.invalidateSlot j).await ((t.invalidateSlot j).fillOf j (.fillRead j left)) fun u => fillLoop left (j + 1) (u.filled j)

/-- `VRD` (R140). -/
def execVrd (s : State) : Host.Outcome State Fault Refusal :=
  .next <| s.withView fun s => fillLoop s.view.cnt s.view.base s

/-- Slot `q` of the view overlaps the byte range `[off, off+len)` (R141). -/
def overlaps (off len : Word) (q : Nat) : Bool :=
  0 < len.toNat && off.toNat < blockBytes * (q + 1) && blockBytes * q < off.toNat + len.toNat

/-- The view slots `0 .. n-1` a `VMOD` marks. -/
def markedSlots (off len : Word) (n : Nat) : List Nat := (List.range n).filter (overlaps off len)

/-- Mark view slot `q` modified and tag it to its block (R141). -/
def State.markSlot (s : State) (q : Nat) : State := s.tagSlot (s.view.base + q) (blockPlus s.view.start q) true

/-- Mark view slots in order. -/
def State.markSlots (s : State) : List Nat → State
  | [] => s
  | q :: qs => State.markSlots (s.markSlot q) qs

/-- `VMOD off, len` (R141). -/
def execVmod (off len : Word) (s : State) : Host.Outcome State Fault Refusal :=
  .next <| s.withView fun s =>
    if rangeInView s off len then
      (s.markSlots (markedSlots off len s.view.cnt)).ret (BitVec.ofNat 32 (markedSlots off len s.view.cnt).length) 0
    else s.raise .badOperand

/-- `VLB off` (R142). -/
def execVlb (off : Word) (s : State) : Host.Outcome State Fault Refusal :=
  .next <| s.withView fun s =>
    if byteInView s off then s.ret ((s.viewByte off.toNat).setWidth 32) 0 else s.raise .badOperand

/-- `VSB off, val` (R143): `val[7:0]` only. -/
def execVsb (off val : Word) (s : State) : Host.Outcome State Fault Refusal :=
  .next <| s.withView fun s =>
    if byteInView s off then (s.setViewByte off.toNat (val.extractLsb' 0 8)).ret 0 0 else s.raise .badOperand

/-- `VLW off` (R144). -/
def execVlw (off : Word) (s : State) : Host.Outcome State Fault Refusal :=
  .next <| s.withView fun s => if wordInView s off then s.ret (s.viewLoad off.toNat) 0 else s.raise .badOperand

/-- `VSW off, val` (R145). -/
def execVsw (off val : Word) (s : State) : Host.Outcome State Fault Refusal :=
  .next <| s.withView fun s =>
    if wordInView s off then (s.setViewWord off.toNat val).ret 0 0 else s.raise .badOperand

end Sys2Proof.Machine
end

