-- ==== Sys2Proof/Machine/Flush.lean ====
section
/-! DEFINITION. `FLUSH` and `NOP` (R160 to R163). -/

namespace Sys2Proof.Machine

open Sys2Proof

/-- The length of the run that starts at the dirty slot `i` (R161). -/
def State.runLength (s : State) (i : Nat) : Nat :=
  countUp (fun r => i + r < s.slots.length && (s.slot i).tag.toNat + r ≤ maxBlock && s.dirtyAt (i + r)
    && (s.slot (i + r)).tag.toNat = (s.slot i).tag.toNat + r) s.slots.length 1

/-- The write request of the run of `r` slots from `i` (R160). -/
def State.runOf (s : State) (i r : Nat) (k : Cont) : Request :=
  { kind := .wr, blk := (s.slot i).tag, cnt := r, buf := .slots i, cont := k }

/-- The loop of `FLUSH` from slot `i` on (R160). `fuel` bounds its passes; each pass moves `i` on by at least one, so the
number of slots is enough. -/
def flushLoop : Nat → Nat → Nat → Nat → State → State
  | 0, _, runs, blocks, s => s.ret (BitVec.ofNat 32 runs) (BitVec.ofNat 32 blocks)
  | fuel + 1, i, runs, blocks, s =>
    if i < s.slots.length then
      if s.dirtyAt i then
        let r := s.runLength i
        s.await (s.runOf i r (.flush i r fuel runs blocks)) fun t =>
          flushLoop fuel (i + r) (runs + 1) (blocks + r) (t.cleanRun i r)
      else flushLoop fuel (i + 1) runs blocks s
    else s.ret (BitVec.ofNat 32 runs) (BitVec.ofNat 32 blocks)

/-- `FLUSH` (R160). -/
def execFlush (s : State) : Host.Outcome State Fault Refusal :=
  .next (flushLoop s.slots.length 0 0 0 { s with view := { s.view with valid := false } })

/-- `NOP` (R163). -/
def execNop (s : State) : Host.Outcome State Fault Refusal := .next (s.ret 0 0)

end Sys2Proof.Machine
end

