-- ==== Sys2Proof/Machine/Directory.lean ====
section
/-! DEFINITION. The header commands (R174 to R186), and where a suspended command goes on (R32). -/

namespace Sys2Proof.Machine

open Sys2Proof

/-- The gate of R186: not validated, no effect. -/
def State.withHeader (s : State) (k : State → State) : State := if s.hdrValidated then k s else s.raise .notValidated

/-- The request of `HLD` (R178). -/
def headerRead : Request := { kind := .rd, blk := 0, cnt := 1, buf := .header, cont := .headerLoad }

/-- The request of `HWB`, `c` the checksum stored (R179). -/
def headerWrite (c : Word) : Request := { kind := .wr, blk := 0, cnt := 1, buf := .header, cont := .headerStore c }

/-- `HLD` (R178); it ends the host's mount (R54). -/
def execHld (s : State) : Host.Outcome State Fault Refusal :=
  .next (State.await { s with hdrValidated := false, mounted := false } headerRead fun t => t.ret 0 0)

/-- `HVAL` (R174): `Missing`, then `Version`, then `Checksum` (R295). Success begins the host's mount (R54); a failure
clears `hdr_validated`, but R54 does not list it among what ends the mount. -/
def execHval (s : State) : Host.Outcome State Fault Refusal :=
  .next <|
    if blockByte s.hdr 0 = 0 then State.raise { s with hdrValidated := false } .hdrMissing
    else if blockByte s.hdr 0 ≠ s.cfg.supportedVersion then
      State.finish { s with hdrValidated := false } .hdrVersion ((blockByte s.hdr 0).setWidth 32) 0
    else if storedChecksum s.hdr ≠ cksum s.cfg.crc s.hdr then
      State.finish { s with hdrValidated := false } .hdrChecksum (cksum s.cfg.crc s.hdr) 0
    else
      State.ret { s with hdrValidated := true, mounted := true } (BitVec.ofNat 32 (liveCount s.hdr))
        ((blockByte s.hdr 0).setWidth 32)

/-- `HINIT` (R175). -/
def execHinit (s : State) : Host.Outcome State Fault Refusal :=
  .next (State.ret { s with hdr := blockSetByte s.hdr 0 s.cfg.supportedVersion } 0 0)

/-- `HCLR` (R176); it ends the host's mount (R54). -/
def execHclr (s : State) : Host.Outcome State Fault Refusal :=
  .next (State.ret { s with hdr := zeroBlock, hdrValidated := false, mounted := false } 0 0)

/-- `HSUM` (R177). -/
def execHsum (s : State) : Host.Outcome State Fault Refusal :=
  .next (State.ret { s with hdr := withChecksum s.cfg.crc s.hdr } (cksum s.cfg.crc s.hdr) 0)

/-- `HWB` (R179): the checksum field is updated before the write and stays so on error. -/
def execHwb (s : State) : Host.Outcome State Fault Refusal :=
  .next <| s.withHeader fun s =>
    State.await { s with hdr := withChecksum s.cfg.crc s.hdr } (headerWrite (cksum s.cfg.crc s.hdr)) fun t => t.ret (cksum s.cfg.crc s.hdr) 0

/-- `HCNT` (R180). -/
def execHcnt (s : State) : Host.Outcome State Fault Refusal :=
  .next <| s.withHeader fun s => s.ret (BitVec.ofNat 32 (liveCount s.hdr)) 0

/-- `HGET idx` (R181). -/
def execHget (idx : Byte) (s : State) : Host.Outcome State Fault Refusal :=
  .next <| s.withHeader fun s =>
    if inDirectory idx then
      if idx.toNat < liveCount s.hdr then s.ret (headerEntry s.hdr idx.toNat) 1 else s.ret 0 0
    else s.raise .badOperand

/-- The entry `HNEW` makes for id `i`: blocks `4i+4 .. 4i+7` (R182, R66). -/
def newEntry (i : Nat) : Word := mkEntry (i * modelBlocks + modelsStart) modelBlocks i

/-- `HNEW` (R182). -/
def execHnew (s : State) : Host.Outcome State Fault Refusal :=
  .next <| s.withHeader fun s =>
    if liveCount s.hdr = maxModels then s.raise .tooManyModels
    else
      State.ret { s with hdr := blockSetWord s.hdr (4 + 4 * liveCount s.hdr) (newEntry (freeId s.hdr)) }
        (newEntry (freeId s.hdr)) (BitVec.ofNat 32 (liveCount s.hdr))

/-- The header without entry `j`: later entries move down by one, entry 63 becomes 0 (R183, D24). -/
def removeEntry (h : Block) (j : Nat) : Block := withEntries h ((headerEntries h).eraseIdx j ++ [0])

/-- `HDEL id` (R183). -/
def execHdel (id : Byte) (s : State) : Host.Outcome State Fault Refusal :=
  .next <| s.withHeader fun s =>
    if inDirectory id then
      match (liveEntries s.hdr).findIdx? fun w => entryId w = id.toNat with
      | none => s.ret 0 (BitVec.ofNat 32 (liveCount s.hdr))
      | some j => State.ret { s with hdr := removeEntry s.hdr j } 1 (BitVec.ofNat 32 (liveCount (removeEntry s.hdr j)))
    else s.raise .badOperand

/-- `HLW off` (R184): not gated. -/
def execHlw (off : Word) (s : State) : Host.Outcome State Fault Refusal :=
  .next (if wordInHeader off then s.ret (blockWord s.hdr off.toNat) 0 else s.raise .badOperand)

/-- `HSW off, val` (R185): not gated. -/
def execHsw (off val : Word) (s : State) : Host.Outcome State Fault Refusal :=
  .next <|
    if wordInHeader off then State.ret { s with hdr := blockSetWord s.hdr off.toNat val } 0 0 else s.raise .badOperand

/-- Where a suspended command goes on after its request succeeded (R32, R206(a), R207(a)). -/
def resume : Cont → State → State
  | .select base cnt start j left, t =>
    constructLoop base cnt start left (j + 1) ((t.cleanSlot j).invalidateSlot j)
  | .fillWrite j left, t => refillFrom left j (t.cleanSlot j)
  | .fillRead j left, t => fillLoop left (j + 1) (t.filled j)
  | .flush i r fuel runs blocks, t => flushLoop fuel (i + r) (runs + 1) (blocks + r) (t.cleanRun i r)
  | .headerLoad, t => t.ret 0 0
  | .headerStore c, t => t.ret c 0

end Sys2Proof.Machine
end

