-- ==== Sys2Proof/Machine/Dispatch.lean ====
section
/-! DEFINITION. One arm per command, one direct call each (R11, R94). -/

namespace Sys2Proof.Machine

open Sys2Proof

def exec (i : Instr) (s : State) : Host.Outcome State Fault Refusal :=
  match i with
  | .nop => Sys2Proof.Machine.execNop s
  | .sel start => Sys2Proof.Machine.execSel start s
  | .selx len start => Sys2Proof.Machine.execSelx len start s
  | .vrd => Sys2Proof.Machine.execVrd s
  | .vmod off len => Sys2Proof.Machine.execVmod off len s
  | .flush => Sys2Proof.Machine.execFlush s
  | .vlb off => Sys2Proof.Machine.execVlb off s
  | .vsb off val => Sys2Proof.Machine.execVsb off val s
  | .vlw off => Sys2Proof.Machine.execVlw off s
  | .vsw off val => Sys2Proof.Machine.execVsw off val s
  | .hld => Sys2Proof.Machine.execHld s
  | .hval => Sys2Proof.Machine.execHval s
  | .hinit => Sys2Proof.Machine.execHinit s
  | .hclr => Sys2Proof.Machine.execHclr s
  | .hsum => Sys2Proof.Machine.execHsum s
  | .hwb => Sys2Proof.Machine.execHwb s
  | .hcnt => Sys2Proof.Machine.execHcnt s
  | .hget idx => Sys2Proof.Machine.execHget idx s
  | .hnew => Sys2Proof.Machine.execHnew s
  | .hdel id => Sys2Proof.Machine.execHdel id s
  | .hlw off => Sys2Proof.Machine.execHlw off s
  | .hsw off val => Sys2Proof.Machine.execHsw off val s

end Sys2Proof.Machine
end

