-- ==== Sys2Proof/Machine/Port.lean ====
section
/-! DEFINITION. The host's register port: stores and loads (R40 to R49), the launch of a command (R41, R280), and what each input
does (R9, R46, R202, R209, R310). -/

namespace Sys2Proof.Machine

open Sys2Proof

/-- The descriptor as it stands in the operand registers (R90). -/
def State.descriptor (s : State) : Descriptor := ⟨s.cmd0, s.cmd1, s.cmd2⟩

/-- An accepted store to `CMD0` (R41): the value stored, `busy <- 1`, `done <- 0`, `ovr <- 0`, `err <- 0`. -/
def State.launch (s : State) (v : Word) : State :=
  { s with cmd0 := v, busy := true, done := false, ovr := false, err := .ok, seq := .run }

/-- Decode and execute the launched descriptor (R280 steps 2 and 3); an illegal one ends at once with `RES0 <- CMD0`
(R95, R291). -/
def State.runCommand (s : State) : Host.Outcome State Fault Refusal :=
  match decode s.descriptor with
  | .ok i => exec i s
  | .error _ => .next (s.finish .illegalCommand s.cmd0 0)

/-- A store dropped because `busy = 1` (R41, R42). -/
def State.dropped (s : State) : State := { s with ovr := true }

/-- A store to `CTRL` (R46): reset whatever the state, else cancel of a waiting command (R209, R297), else nothing. -/
def State.writeCtrl (s : State) (v : Word) : State :=
  if ctrlReset v then s.performReset
  else if ctrlCancel v then
    match s.seq with
    | .wait r => (s.withdraw r).raise .cancelled
    | _ => s
  else s

/-- A host store of `width` bytes at a register offset (R40): aligned 32-bit stores to `CMD0`, `CMD1`, `CMD2`, `CTRL` act;
every other store is ignored. -/
def State.busWrite (s : State) (width off : Nat) (v : Word) : Host.Outcome State Fault Refusal :=
  if width ≠ 4 then .next s
  else match off with
    | 0x00 => if s.busy then .next s.dropped else (s.launch v).runCommand
    | 0x04 => .next (if s.busy then s.dropped else { s with cmd1 := v })
    | 0x08 => .next (if s.busy then s.dropped else { s with cmd2 := v })
    | 0x1C => .next (s.writeCtrl v)
    | _ => .next s

/-- A host load of a register: no side effect (R67); the value read is noted in `readData`. -/
def State.busRead (s : State) (width off : Nat) : State := { s with readData := readReg s width off }

end Sys2Proof.Machine
end

