-- ==== Sys2Proof/Machine/Sequence.lean ====
section
/-! DEFINITION. What host sequences are made of (R4, R101): the program a sequence is, the commands in it, and the helpers
`CopyOut` and `CopyIn`. -/

namespace Sys2Proof.Machine

open Sys2Proof

/-- The expansion of a host sequence, or of a part of one (R101): the commands it issues and what the host does between
them, each in its order. An error of a command ends the sequence (45_host_file.md), so a program goes on only from the
results (`RES0`, `RES1`) of a command that ended with success. -/
inductive Prog (α : Type) where
  /-- It ends with a value. -/
  | ret (a : α)
  /-- The host itself ends it with an error (R301). -/
  | fail (e : Err)
  /-- The model refuses the case. -/
  | refuse (r : Refusal)
  /-- The host program aborts (R231). -/
  | abort (f : Fault)
  /-- It issues a command and goes on with its results. -/
  | command (i : Instr) (k : Word × Word → Prog α)
  /-- The host's File becomes `f` (R52, R53). -/
  | keep (f : Option File) (p : Prog α)
  /-- The host disposes of its Filesystem instance (R54). -/
  | unmount (p : Prog α)

/-- Go on after a part that ended with a value; every other end is the end of the sequence. -/
def Prog.andThen {α β : Type} (x : Prog α) (f : α → Prog β) : Prog β :=
  match x with
  | .ret a => f a
  | .fail e => .fail e
  | .refuse r => .refuse r
  | .abort a => .abort a
  | .command i k => .command i fun r => (k r).andThen f
  | .keep g p => .keep g (p.andThen f)
  | .unmount p => .unmount (p.andThen f)

/-- Issue a command (R41, R100) and hand on its results. -/
def issue (i : Instr) : Prog (Word × Word) := .command i .ret

/-- Issue a command and forget its results. -/
def issue_ (i : Instr) : Prog Unit := .command i fun _ => .ret ()

/-! ### Host numbers as operands (R91, R93; log entry 24)

Host numbers are unbounded (R12, 45_host_file.md). Where a rule gives a command an effect for a number its operand cannot
hold, the operand written for it is one with that effect; where no rule does, it is a free value. -/

/-- A block number or a stored value as a 32-bit operand; one that does not fit is a free value (R122, R229). -/
def wordOperand (n : Nat) : Word := if n < 2 ^ 32 then BitVec.ofNat 32 n else Config.freeOperand n

/-- A view byte offset or length as a 32-bit operand; one that does not fit is past every view, and so is the operand written
for it: `BAD_OPERAND` (R141 to R143, R292). -/
def offsetOperand (n : Nat) : Word := if n < 2 ^ 32 then BitVec.ofNat 32 n else 0xFFFFFFFF

/-- A directory index or model id as the 8-bit `k`; one that does not fit is not below 64, and so is the operand written for
it: `BAD_OPERAND` (R181, R183, R258, R292). -/
def byteOperand (n : Nat) : Byte := if n < 2 ^ 8 then BitVec.ofNat 8 n else 0xFF

/-- `SEL` of a host block number; `RES0` is the view's block count (R128). -/
def issueSel (blk : Nat) : Prog Nat := (issue (.sel (wordOperand blk))).andThen fun r => .ret r.1.toNat

/-- The `SELX` a host issues for `len` slots from block `blk`. A length above 255 is above `N`, and a range that begins past
`0xFFFFFFFF` ends past it: `BAD_OPERAND` (R123, R292), as of the descriptor with `k = 0` written for them. -/
def selxOf (len blk : Nat) : Instr :=
  if len < 2 ^ 8 ∧ blk < 2 ^ 32 then .selx (BitVec.ofNat 8 len) (BitVec.ofNat 32 blk) else .selx 0 0xFFFFFFFF

/-- `SELX len, blk` of host numbers. -/
def issueSelx (len blk : Nat) : Prog Unit := issue_ (selxOf len blk)

/-- `VMOD off, len` of host numbers. -/
def issueVmod (off len : Nat) : Prog Unit := issue_ (.vmod (offsetOperand off) (offsetOperand len))

/-- `VSW 0, n` of a host number: a length prefix (R221, R229, R254). -/
def storePrefix (n : Nat) : Prog Unit := issue_ (.vsw 0 (wordOperand n))

/-- `RES0` of `VLW 0`: the stored length prefix (R222, R253). -/
def loadPrefix : Prog Nat := (issue (.vlw 0)).andThen fun r => .ret r.1.toNat

/-- `CopyOut(off, n)` (R101): `VLB off .. VLB off+n-1`. R101 lets a host use `VLW` for aligned groups of four; this one never
does (DESIGN CHOICE, log entry 29). -/
def copyOut : Nat → Nat → Prog (List Byte)
  | _, 0 => .ret []
  | off, n + 1 =>
    (issue (.vlb (offsetOperand off))).andThen fun r =>
      (copyOut (off + 1) n).andThen fun bs => .ret (r.1.setWidth 8 :: bs)

/-- `CopyIn(off, bytes)` (R101): `VSB off, bytes[0]`, `VSB off+1, bytes[1]`, .... R101 lets a host use `VSW` for aligned groups
of four; this one never does (DESIGN CHOICE, log entry 29). -/
def copyIn : Nat → List Byte → Prog Unit
  | _, [] => .ret ()
  | off, b :: bs => (issue_ (.vsb (offsetOperand off) (b.setWidth 32))).andThen fun _ => copyIn (off + 1) bs

/-- `ceil(x/512)` (45_host_file.md). -/
def ceilBlocks (x : Nat) : Nat := (x + 511) / 512

/-- The open File, or no sequence at all (R220). -/
def withFile {α : Type} (file : Option File) (k : File → Prog α) : Prog α :=
  match file with
  | some f => k f
  | none => .refuse .noOpenFile

/-- Only while no File is open (R53, U7). -/
def withNoFile {α : Type} (file : Option File) (p : Prog α) : Prog α :=
  match file with
  | some _ => .refuse .fileAlreadyOpen
  | none => p

/-! ### Running a program (R41, R43, R44, R208) -/

/-- Replace the host's File state (R52, R53). -/
def State.setFile (s : State) (f : Option File) : State := { s with file := f }

/-- The host's Filesystem instance is disposed of (R54). -/
def State.dispose (s : State) : State := { s with mounted := false }

/-- A host sequence has ended; what it returns is noted in `hostResult` (log entry 12). -/
def State.hostDone (s : State) (r : HostResult) : State := { s with hostResult := r, job := none }

/-- A host sequence stays at a suspension point (R9, R208). -/
def State.hostWaits (s : State) (j : Job) : State := { s with hostResult := .pending, job := some j }

/-- Go on after a register store. -/
def afterStore (x : Host.Outcome State Fault Refusal) (k : State → Host.Outcome State Fault Refusal) :
    Host.Outcome State Fault Refusal :=
  match x with
  | .next s => k s
  | .fault f => .fault f
  | .refused r => .refused r

/-- The host issues a command (R41, R100): it stores `CMD1`, `CMD2`, then `CMD0`. -/
def State.issueCommand (s : State) (i : Instr) : Host.Outcome State Fault Refusal :=
  afterStore (s.busWrite 4 0x04 (encode i).cmd1) fun s =>
    afterStore (s.busWrite 4 0x08 (encode i).cmd2) fun s => s.busWrite 4 0x00 (encode i).cmd0

/-- What a sequence returns when a command of it ends with error `e` (R300). `Filesystem.new` returns an `InitError`
(R251, R304, D32), but for a cancel (DEDUCED, log entry 25). -/
def seqError (q : HostSeq) (e : Err) : HostResult :=
  match q with
  | .fsNew => if e = .cancelled then .err e else .initError e
  | _ => .err e

/-- What the host reads when its store to `CMD0` has been performed (R43, R44): the command of sequence `q` still waits,
or it ended with its results, or with an error, which ends the sequence. -/
def State.commandEnd (s : State) (q : HostSeq) (waits : Host.Outcome State Fault Refusal)
    (k : Word × Word → Host.Outcome State Fault Refusal) : Host.Outcome State Fault Refusal :=
  match s.seq with
  | .wait _ => waits
  | _ => if s.err = .ok then k (s.res0, s.res1) else .next (s.hostDone (seqError q s.err))

/-- Run what is left of sequence `q`, called with the host's File `file`, `results` those of its commands so far (R101). A
command that waits suspends it (R208). -/
def runProg (q : HostSeq) (file : Option File) :
    Prog HostResult → List (Word × Word) → State → Host.Outcome State Fault Refusal
  | .ret r, _, s => .next (s.hostDone r)
  | .fail e, _, s => .next (s.hostDone (.err e))
  | .refuse r, _, _ => .refused r
  | .abort f, _, _ => .fault f
  | .command i k, results, s =>
    afterStore (s.issueCommand i) fun s =>
      s.commandEnd q (.next (s.hostWaits ⟨q, file, results⟩)) fun r => runProg q file (k r) (results ++ [r]) s
  | .keep f p, results, s => runProg q file p results (s.setFile f)
  | .unmount p, results, s => runProg q file p results s.dispose

/-- What is left of a program when commands with these results have ended. What the host did before a command of them it has
done already. -/
def Prog.after {α : Type} : Prog α → List (Word × Word) → Prog α
  | p, [] => p
  | .command _ k, r :: rs => (k r).after rs
  | .keep _ p, r :: rs => p.after (r :: rs)
  | .unmount p, r :: rs => p.after (r :: rs)
  | p, _ :: _ => p

end Sys2Proof.Machine
end

