-- ==== Sys2Proof/Machine/FileSeq.lean ====
section
/-! DEFINITION. The host sequences of the File handle (R220 to R232). `n` is the number of cache slots where one is needed. -/

namespace Sys2Proof.Machine

open Sys2Proof

/-- `File.create(start, end)` (R221). -/
def fileCreate (start stop : Nat) : Prog HostResult :=
  (issueSel start).andThen fun _ =>
    (storePrefix 0).andThen fun _ =>
      (issueVmod 0 4).andThen fun _ =>
        .keep (some
          { start := start, stop := stop, len := lenBytes, cursor := lenBytes, resized := false, unflushed := true })
          (.ret .done)

/-- `File.open(start, end)` (R222). A stored length above the region's capacity is outside the admitted inputs (R319, U4:
`refuse`). -/
def fileOpen (start stop : Nat) : Prog HostResult :=
  (issueSel start).andThen fun _ =>
    (issue_ .vrd).andThen fun _ =>
      loadPrefix.andThen fun n =>
        if blockBytes * (stop - start) < n + lenBytes then .refuse .storedLengthTooLarge
        else
          .keep (some
            { start := start, stop := stop, len := n + lenBytes, cursor := lenBytes, resized := false, unflushed := false })
            (.ret .done)

/-- `File.len()` (R223). -/
def fileLen (f : File) : Prog HostResult := .ret (.num (f.len - lenBytes))

/-- The candidate offset of a seek (R224). -/
def seekTarget (f : File) (whence : Whence) (n : Int) : Int :=
  match whence with
  | .start => lenBytes + n
  | .fromEnd => f.len + n
  | .current => f.cursor + n

/-- `File.seek(whence, n)` (R224). -/
def fileSeek (whence : Whence) (n : Int) (f : File) : Prog HostResult :=
  if seekTarget f whence n < lenBytes ∨ f.len < seekTarget f whence n then .fail .seekOutOfBounds
  else
    .keep (some { f with cursor := (seekTarget f whence n).toNat })
      (.ret (.num ((seekTarget f whence n).toNat - lenBytes)))

/-- `SELX c, start + q; VRD; CopyOut(o, w)`, then the cursor moves on by `w` (R225, R226). -/
def fileFetch (f : File) (c w : Nat) : Prog HostResult :=
  (issueSelx c (f.start + f.cursor / 512)).andThen fun _ =>
    (issue_ .vrd).andThen fun _ =>
      (copyOut (f.cursor % 512) w).andThen fun bs => .keep (some { f with cursor := f.cursor + w }) (.ret (.bytes bs))

/-- `File.read(n)` (R225). -/
def fileRead (slots n : Nat) (f : File) : Prog HostResult :=
  let m := min n (f.len - f.cursor)
  let c := min (ceilBlocks (f.cursor % 512 + m)) slots
  if m = 0 then .ret (.bytes []) else fileFetch f c (min m (512 * c - f.cursor % 512))

/-- `File.read_exact(n)` (R226). -/
def fileReadExact (slots n : Nat) (f : File) : Prog HostResult :=
  if f.len < f.cursor + n then .fail .unexpectedEof
  else if 0 < n ∧ slots < ceilBlocks (f.cursor % 512 + n) then .fail .unexpectedEof
  else if n = 0 then .ret (.bytes [])
  else fileFetch f (ceilBlocks (f.cursor % 512 + n)) n

/-- The File state of `File.write` before its first command (R227): `len` is raised before the copy. -/
def writeRaised (f : File) (n : Nat) : File :=
  if f.len < f.cursor + n then { f with len := f.cursor + n, resized := true, unflushed := true }
  else { f with unflushed := true }

/-- The commands of `File.write(buf)` on the raised File (R227). -/
def fileStore (buf : List Byte) (f : File) : Prog HostResult :=
  (issueSel (f.start + f.cursor / 512)).andThen fun c =>
    (if f.cursor % 512 = 0 ∧ 512 ≤ buf.length then .ret () else issue_ .vrd).andThen fun _ =>
      let w := min buf.length (512 * c - f.cursor % 512)
      (copyIn (f.cursor % 512) (buf.take w)).andThen fun _ =>
        (issueVmod (f.cursor % 512) w).andThen fun _ => .keep (some { f with cursor := f.cursor + w }) (.ret (.num w))

/-- `File.write(buf)` (R227). -/
def fileWrite (buf : List Byte) (f : File) : Prog HostResult :=
  if buf.length = 0 then .ret (.num 0)
  else if f.len < f.cursor + buf.length ∧ f.stop - f.start < ceilBlocks (f.cursor + buf.length) then .fail .fileFull
  else .keep (some (writeRaised f buf.length)) (fileStore buf (writeRaised f buf.length))

/-- `File.truncate()` (R228). -/
def fileTruncate (f : File) : Prog HostResult :=
  .keep (some { f with len := f.cursor, resized := true, unflushed := true }) (.ret .done)

/-- The rewriting of the length prefix (R229): `resized` is cleared once the prefix is in a dirty slot. -/
def rewritePrefix (f : File) : Prog Unit :=
  (issueSel f.start).andThen fun _ =>
    (issue_ .vrd).andThen fun _ =>
      (storePrefix (f.len - lenBytes)).andThen fun _ =>
        (issueVmod 0 4).andThen fun _ => .keep (some { f with resized := false }) (.ret ())

/-- `File.flush()` (R229): `unflushed` is cleared after the `FLUSH`. -/
def fileFlush (f : File) : Prog HostResult :=
  (if f.resized then rewritePrefix f else .ret ()).andThen fun _ =>
    (issue_ .flush).andThen fun _ => .keep (some { f with resized := false, unflushed := false }) (.ret .done)

/-- `File.close()` (R230): the File stays open if its flush failed. -/
def fileClose (f : File) : Prog HostResult := (fileFlush f).andThen fun _ => .keep none (.ret .done)

/-- Discarding a File without `close` (R231, R299): a debug build aborts if something is unflushed. -/
def fileDiscard (debugChecks : Bool) (f : File) : Prog HostResult :=
  if f.unflushed && debugChecks then .abort .hostAborted else .keep none (.ret .done)

end Sys2Proof.Machine
end

