-- ==== Sys2Proof/Machine/FsSeq.lean ====
section
/-! DEFINITION. The host sequences of the Filesystem façade (R250 to R260), the call of a host sequence, and how one goes on when
a command it waited for has ended. -/

namespace Sys2Proof.Machine

open Sys2Proof

/-- `Filesystem.new()` (R251); what a failure of it returns is in `seqError`. -/
def fsNew : Prog HostResult := (issue_ .hld).andThen fun _ => (issue_ .hval).andThen fun _ => .ret .done

/-- `Filesystem.new_empty()` (R252). -/
def fsNewEmpty : Prog HostResult :=
  (issue_ .hclr).andThen fun _ =>
    (issue_ .hinit).andThen fun _ => (issue_ .hsum).andThen fun _ => (issue_ .hval).andThen fun _ => .ret .done

/-- `Filesystem.read_config()` (R253); a stored length above 508 is outside the admitted inputs (U4: `refuse`). -/
def fsReadConfig : Prog HostResult :=
  (issueSel configBlock).andThen fun _ =>
    (issue_ .vrd).andThen fun _ =>
      loadPrefix.andThen fun n =>
        if 508 < n then .refuse .storedLengthTooLarge else (copyOut 4 n).andThen fun bs => .ret (.bytes bs)

/-- `Filesystem.write_config(bytes)` (R254). -/
def fsWriteConfig (bytes : List Byte) : Prog HostResult :=
  if 508 < bytes.length then .fail .fileFull
  else
    (issueSel configBlock).andThen fun _ =>
      (storePrefix bytes.length).andThen fun _ =>
        (copyIn 4 bytes).andThen fun _ => (issueVmod 0 (4 + bytes.length)).andThen fun _ => .ret .done

/-- Printable ASCII, `0x20 .. 0x7E` (R255; PRESUMED, G2; log entry 13). -/
def printable (b : Byte) : Bool := 0x20 ≤ b.toNat && b.toNat ≤ 0x7E

/-- The names of entries `j .. j+left-1` in directory order (R255). -/
def namesFrom : Nat → Nat → Prog (List (Nat × List Byte))
  | _, 0 => .ret []
  | j, left + 1 =>
    (issue (.hget (byteOperand j))).andThen fun w =>
      (copyOut (16 * entryId w.1) 16).andThen fun raw =>
        (namesFrom (j + 1) left).andThen fun ns => .ret ((entryId w.1, raw.takeWhile printable) :: ns)

/-- `Filesystem.model_names(callback)` (R255): the callback's arguments, in the order of its calls. -/
def fsModelNames : Prog HostResult :=
  (issueSelx namesBlocks namesStart).andThen fun _ =>
    (issue_ .vrd).andThen fun _ =>
      (issue .hcnt).andThen fun n => (namesFrom 0 n.1.toNat).andThen fun ns => .ret (.names ns)

/-- The first entry among `j .. j+left-1` that carries `id` (R256). -/
def findModel (id : Nat) : Nat → Nat → Prog (Option Word)
  | _, 0 => .ret none
  | j, left + 1 =>
    (issue (.hget (byteOperand j))).andThen fun w =>
      if entryId w.1 = id then .ret (some w.1) else findModel id (j + 1) left

/-- `Filesystem.model(id)` (R256): the bounds come from the entry's own fields. -/
def fsModel (id : Nat) : Prog HostResult :=
  (issue .hcnt).andThen fun n =>
    (findModel id 0 n.1.toNat).andThen fun found =>
      match found with
      | none => .ret .absent
      | some w => fileOpen (entryStart w) (entryEnd w)

/-- `Filesystem.new_model(name)` (R257). -/
def fsNewModel (name : List Byte) : Prog HostResult :=
  if nameBytes < name.length then .fail .modelNameOverflow
  else
    (issue .hnew).andThen fun w =>
      let id := entryId w.1
      (issueSel (namesStart + id / 32)).andThen fun _ =>
        (issue_ .vrd).andThen fun _ =>
          (copyIn (16 * (id % 32)) (name ++ List.replicate (nameBytes - name.length) 0)).andThen fun _ =>
            (issueVmod (16 * (id % 32)) 16).andThen fun _ =>
              (issue_ .hwb).andThen fun _ => fileCreate (entryStart w.1) (entryStart w.1 + 4)

/-- `Filesystem.delete_model(id)` (R258): `HWB` only when an entry was removed. Every `id` not below 64 ends with
`BAD_OPERAND` (R183, R258), also one that `HDEL`'s 8-bit `k` cannot hold (`byteOperand`, log entry 24). -/
def fsDeleteModel (id : Nat) : Prog HostResult :=
  (issue (.hdel (byteOperand id))).andThen fun r =>
    if r.1 = 0 then .ret .done else (issue_ .hwb).andThen fun _ => .ret .done

/-- `Filesystem.flush()` (R259). -/
def fsFlush : Prog HostResult := (issue_ .flush).andThen fun _ => .ret .done

/-- The disposal of the Filesystem instance (R54): no command; without an instance nothing. -/
def fsDispose : Prog HostResult := .unmount (.ret .done)

/-- The expansion of a host sequence (R101), with the host's File and the instance's number of slots and `DEBUG_CHECKS`;
sequences that are not the open File's need that none is open (R53). -/
def program (q : HostSeq) (file : Option File) (slots : Nat) (debugChecks : Bool) : Prog HostResult :=
  match q with
  | .fileCreate start stop => withNoFile file (fileCreate start stop)
  | .fileOpen start stop => withNoFile file (fileOpen start stop)
  | .fileLen => withFile file fileLen
  | .fileSeek whence n => withFile file (fileSeek whence n)
  | .fileRead n => withFile file (fileRead slots n)
  | .fileReadExact n => withFile file (fileReadExact slots n)
  | .fileWrite buf => withFile file (fileWrite buf)
  | .fileTruncate => withFile file fileTruncate
  | .fileFlush => withFile file fileFlush
  | .fileClose => withFile file fileClose
  | .fileDiscard => withFile file (fileDiscard debugChecks)
  | .fsNew => withNoFile file fsNew
  | .fsNewEmpty => withNoFile file fsNewEmpty
  | .fsReadConfig => withNoFile file fsReadConfig
  | .fsWriteConfig bytes => withNoFile file (fsWriteConfig bytes)
  | .fsModelNames => withNoFile file fsModelNames
  | .fsModel id => withNoFile file (fsModel id)
  | .fsNewModel name => withNoFile file (fsNewModel name)
  | .fsDeleteModel id => withNoFile file (fsDeleteModel id)
  | .fsFlush => withNoFile file fsFlush
  | .fsDispose => withNoFile file fsDispose

/-- Run a host sequence from its beginning (R101). The spec leaves open what an operation of the Filesystem does while no
instance exists (R54, R250); its expansion is run as it stands, as R253 to R259 give it without a check (DESIGN CHOICE, log
entry 28). -/
def runSequence (q : HostSeq) (s : State) : Host.Outcome State Fault Refusal :=
  runProg q s.file (program q s.file s.slots.length s.cfg.debugChecks) [] s

/-- The host software runs a sequence. One that is called while a command is in execution, or while a sequence is suspended,
is a second user's (R322, U7: `refuse`). -/
def State.call (s : State) (q : HostSeq) : Host.Outcome State Fault Refusal :=
  if s.busy || s.job.isSome then .refused .hostBusy else runSequence q s

/-- What is left of a suspended sequence once the command it waits for has ended with results `r`. -/
def continuation (j : Job) (s : State) (r : Word × Word) : Prog HostResult :=
  (program j.seq j.file s.slots.length s.cfg.debugChecks).after (j.results ++ [r])

/-- The host goes on with a suspended sequence when the command it waited for has ended (R101, R208): with the next command
of its expansion, or to its end with the command's error. -/
def State.continueSequence (s : State) : Host.Outcome State Fault Refusal :=
  match s.job with
  | none => .next s
  | some j =>
    s.commandEnd j.seq (.next s) fun r => runProg j.seq j.file (continuation j s r) (j.results ++ [r]) s

end Sys2Proof.Machine
end

