-- ==== Sys2Proof/Machine/Agents.lean ====
section
/-! DEFINITION. What one input does to the machine (R9): the body of the step. -/

namespace Sys2Proof.Machine

open Sys2Proof

/-- The machine takes its next input, none of them ending a wait. An answer nobody waits for is dropped (log entry 6); with
no input nothing happens (R310, R330). -/
def State.takeInput (s : State) : Host.Outcome State Fault Refusal :=
  match s.inputs with
  | [] => .next s
  | .write width off v :: rest => { s with inputs := rest }.busWrite width off v
  | .read width off :: rest => .next ({ s with inputs := rest }.busRead width off)
  | .hardReset :: rest => .next { s with inputs := rest }.performReset
  | .device _ :: rest => .next { s with inputs := rest }
  | .ctrlWith v _ :: rest => { s with inputs := rest }.busWrite 4 0x1C v
  | .call q :: rest => { s with inputs := rest }.call q

/-- One step of the machine: a suspended command goes on if the next input ends its wait (R15, R208), and with it the host
sequence that waits for it (R101); otherwise the next input is taken. -/
def State.advance (s : State) : Host.Outcome State Fault Refusal :=
  match s.seq with
  | .wait r =>
    match s.reply r with
    | some (rep, t) => (settle rep { t with seq := .run } (resume r.cont)).continueSequence
    | none => s.takeInput
  | _ => s.takeInput

end Sys2Proof.Machine
end

