-- ==== Sys2Proof/Machine/Step.lean ====
section
/-! DEFINITION. The step, and where a step finds its next command. -/

namespace Sys2Proof.Machine

open Sys2Proof

/-- One step of the machine (R9, R280). -/
def step (s : State) : Host.Outcome State Fault Refusal := s.advance

/-- The host's question about one row of spec/opcode_table.json: `s` with the descriptor of the row where the next step
takes its command from. There is no fetch (R31, R74): the operand registers hold `CMD1` and `CMD2`, the controller is
idle and no host sequence is suspended, and the host's next act is the store of `CMD0` that launches the command (R41). -/
def State.withFetchWord (s : State) (nbits w : Nat) : State :=
  let d := Descriptor.ofTableWord nbits w
  { s with
    cmd1 := d.cmd1
    cmd2 := d.cmd2
    busy := false
    seq := .idle
    job := none
    inputs := .write 4 0 d.cmd0 :: s.inputs }

end Sys2Proof.Machine
end

