-- ==== Sys2Proof/Safety.lean ====
section
/-! DEFINITION. What a well-formed state of the machine is, in the words claims use: the spec's invariants (R23, R25, R26, R43,
R55, R189, R210), where a host sequence may be suspended (R101), and what a suspended command may rely on. -/

namespace Sys2Proof.Machine

open Sys2Proof

/-- `dirty = 1` implies `valid = 1` (R23). -/
def State.SlotsOk (s : State) : Prop := ∀ j < s.slots.length, (s.slot j).dirty = true → (s.slot j).valid = true

/-- The window `(base, cnt, start)` lies in the slot pool and its blocks exist (R25). -/
def State.WindowOk (s : State) (base cnt : Nat) (start : Word) : Prop :=
  1 ≤ cnt ∧ base + cnt ≤ s.slots.length ∧ start.toNat + cnt ≤ 2 ^ 32

/-- The first `n` slots from `base` on are each Empty or tagged to their block of the window (R26). -/
def State.WindowTags (s : State) (base n : Nat) (start : Word) : Prop :=
  ∀ q < n, (s.slot (base + q)).valid = true → (s.slot (base + q)).tag.toNat = start.toNat + q

/-- The view register's well-formedness and the view invariant (R25, R26). -/
def State.ViewOk (s : State) : Prop :=
  s.view.valid = true →
    s.WindowOk s.view.base s.view.cnt s.view.start ∧ s.WindowTags s.view.base s.view.cnt s.view.start

/-- Slots `i .. i+r-1` are a run of dirty slots (R161). -/
def State.IsRun (s : State) (i r : Nat) : Prop :=
  1 ≤ r ∧ i + r ≤ s.slots.length ∧
    ∀ q < r, s.dirtyAt (i + q) = true ∧ (s.slot (i + q)).tag.toNat = (s.slot i).tag.toNat + q

/-- What the outstanding request and its continuation say of the state (R32, R121, R140, R160, R178, R179, R210). The
write-back of `VRD` is never outstanding: the view invariant rules its branch out (R140). -/
def State.RequestOk (s : State) (r : Request) : Prop :=
  match r.cont with
  | .select base cnt start j left =>
    s.view.valid = false ∧ s.WindowOk base cnt start ∧ base ≤ j ∧ j + left + 1 = base + cnt ∧
      s.WindowTags base (j - base) start ∧ s.dirtyAt j = true ∧ (s.slot j).tag.toNat ≠ start.toNat + (j - base) ∧
      r = s.writeBackOf j r.cont
  | .fillWrite _ _ => False
  | .fillRead j left =>
    s.view.valid = true ∧ s.view.base ≤ j ∧ j + left + 1 = s.view.base + s.view.cnt ∧ (s.slot j).valid = false ∧
      r = s.fillOf j r.cont
  | .flush i n fuel _ _ =>
    s.view.valid = false ∧ s.IsRun i n ∧ s.slots.length ≤ i + n + fuel ∧ r = s.runOf i n r.cont
  | .headerLoad => s.hdrValidated = false ∧ r = headerRead
  | .headerStore c => s.hdrValidated = true ∧ storedChecksum s.hdr = c ∧ c = cksum s.cfg.crc s.hdr ∧ r = headerWrite c

/-- The sequencer between steps: `Idle` exactly when not `busy`; `Run` is never seen (R32, R43, R280). -/
def State.SeqOk (s : State) : Prop :=
  match s.seq with
  | .idle => s.busy = false
  | .run => False
  | .wait r => s.busy = true ∧ s.done = false ∧ s.RequestOk r

/-- The invariant of the machine between steps. -/
structure State.Inv (s : State) : Prop where
  /-- `1 <= N <= 255` (R7). -/
  slotCount : 1 ≤ s.slots.length ∧ s.slots.length ≤ 255
  /-- The parameters are in range (R7, R203). -/
  params : s.cfg.valid = true
  /-- The checksum function detects single-bit changes (R188, G1: an assumption on the parameter; log entry 4). -/
  checksum : DetectsFlips s.cfg.crc
  /-- R23. -/
  slotsOk : s.SlotsOk
  /-- R25, R26. -/
  viewOk : s.ViewOk
  /-- R32, R43. -/
  seqOk : s.SeqOk
  /-- A host sequence is suspended only at a command that waits (R101, R208). -/
  jobOk : s.job.isSome = true → ∃ r, s.seq = .wait r
  /-- The medium is in its canonical form. -/
  mediumOk : Memory.wf s.medium = true

/-- No two valid slots have the same tag (R55). -/
def State.TagsUnique (s : State) : Prop :=
  ∀ i < s.slots.length, ∀ j < s.slots.length, (s.slot i).valid = true → (s.slot j).valid = true →
    (s.slot i).tag = (s.slot j).tag → i = j

/-- No valid slot outside the window `(base, cnt, start)` is tagged to a block of the window. -/
def State.WindowAlone (s : State) (base cnt : Nat) (start : Word) : Prop :=
  ∀ i < s.slots.length, (i < base ∨ base + cnt ≤ i) → (s.slot i).valid = true →
    ¬ (start.toNat ≤ (s.slot i).tag.toNat ∧ (s.slot i).tag.toNat < start.toNat + cnt)

/-- Tag uniqueness with what makes it inductive: the current view, and the view a suspended `SEL`/`SELX` is constructing,
stand alone for their blocks (R55). -/
structure State.UniqueInv (s : State) : Prop where
  unique : s.TagsUnique
  viewAlone : s.view.valid = true → s.WindowAlone s.view.base s.view.cnt s.view.start
  selectAlone : ∀ r base cnt start j left, s.seq = .wait r → r.cont = .select base cnt start j left →
    s.WindowAlone base cnt start

/-- A header whose live ids are distinct and whose words past the live prefix are zero (R189). -/
structure HeaderPacked (h : Block) : Prop where
  distinct : (usedIds h).Nodup
  zeroAfter : ∀ j, liveCount h ≤ j → j < maxModels → headerEntry h j = 0

/-- A header whose live entries are the ones `HNEW` makes (R189). -/
def HeaderRegular (h : Block) : Prop := ∀ w ∈ liveEntries h, entryStart w = 4 * entryId w + 4 ∧ entryLen w = 4

/-- The transactions a step added to the device log. -/
def newTxns (s t : State) : List Txn := t.devLog.drop s.devLog.length

/-- A write answered with success that sent `b`'s data from slot `i` as it stood in `s` (R24). -/
def State.wroteBack (s : State) (i : Nat) (t : Txn) : Prop :=
  t.kind = .wr ∧ t.reply = .ok ∧ t.blk.toNat ≤ (s.slot i).tag.toNat ∧
    t.data[(s.slot i).tag.toNat - t.blk.toNat]? = some (s.slot i).data

end Sys2Proof.Machine
end

