-- ==== Sys2Proof/Certificates/Slice0/Obligations.lean ====
section
/-! DEFINITION. The statements for the provers. What a command leaves is written as an update of the state it started from: a
field that an update does not name is unchanged (the frame). Words such as `victims` and `missing` below say in the spec's
terms what a statement needs. -/

namespace Sys2Proof.Claims

open Sys2Proof Sys2Proof.Machine

/-! ### The report at the end of a command (R280, R284, R44) -/

/-- `s` with the report of a command that ended with `e`, `r0`, `r1`. -/
def ended (s : State) (e : Err) (r0 r1 : Word) : State :=
  { s with err := e, res0 := r0, res1 := r1, busy := false, done := true, seq := .idle }

/-- `s` with the report of a command that a device error `code` ended (R286, R45). -/
def endedIo (s : State) (code : Word) : State := { ended s .io 0 0 with errInfo := code }

/-- The next input withdraws an outstanding request: `CTRL.cancel` written as 1 and `CTRL.reset` as 0 (R46, R209). -/
def isCancel (x : Input) : Prop :=
  ∃ v : Word, v.getLsbD 0 = true ∧ v.getLsbD 1 = false ∧ (x = .write 4 0x1C v ∨ ∃ a, x = .ctrlWith v a)

/-- How an input `x` that is not a success ends a transaction: the reply the device log notes. -/
def failsWith (x : Input) (rep : Reply) : Prop :=
  (∃ e, x = .device (.err e) ∧ rep = .err e) ∨ (isCancel x ∧ rep = .cancelled)

/-- `s` with the report of a command that a failed or cancelled transaction ended (R286, R297). -/
def endedBy (s : State) (rep : Reply) : State :=
  match rep with
  | .err e => endedIo s e
  | _ => ended s .cancelled 0 0

/-- Device answers that are successes, then `rest`. -/
def oks (m : Nat) (rest : List Input) : List Input := List.replicate m (.device .ok) ++ rest

/-! ### Slots and the medium -/

/-- A slot list of the length of `s`'s, slot `j` being `f j`. -/
def slotMap (s : State) (f : Nat → Slot) : List Slot := (List.range s.slots.length).map f

/-- The medium `m` after slots `js` of `s` have been written to their tagged blocks, in that order. -/
def writtenBack (m : Memory) (s : State) (js : List Nat) : Memory :=
  js.foldl (fun m j => Memory.writeBlock m (s.slot j).tag.toNat (s.slot j).data) m

/-- The one-block write of slot `j`. -/
def writeTxn (s : State) (rep : Reply) (j : Nat) : Txn := ⟨.wr, (s.slot j).tag, 1, [(s.slot j).data], rep⟩

/-! ### Selection (R121 to R126) -/

/-- Slot `j` of the window stands for another block than it must hold (R121). -/
def repointed (s : State) (base cnt : Nat) (start : Word) (j : Nat) : Bool :=
  base ≤ j && j < base + cnt && (s.slot j).valid && (s.slot j).tag.toNat ≠ start.toNat + (j - base)

/-- The slots whose data a construct writes back, in order (R121). -/
def victims (s : State) (base cnt : Nat) (start : Word) : List Nat :=
  (List.range s.slots.length).filter fun j => repointed s base cnt start j && (s.slot j).dirty

/-- The slots after a construct has passed the slots before `stop`: repointed ones Empty. -/
def emptied (s : State) (base cnt : Nat) (start : Word) (stop : Nat) : List Slot :=
  slotMap s fun j =>
    if repointed s base cnt start j && j < stop then { s.slot j with valid := false, dirty := false } else s.slot j

/-- The state a selection of the window leaves when every write-back succeeds, `rest` the inputs left (R120, R121). -/
def selected (s : State) (base cnt : Nat) (start : Word) (rest : List Input) : State :=
  ended
    { s with
      slots := emptied s base cnt start s.slots.length
      view := ⟨true, base, cnt, start⟩
      medium := writtenBack s.medium s (victims s base cnt start)
      devLog := s.devLog ++ (victims s base cnt start).map (writeTxn s .ok)
      inputs := rest }
    .ok (BitVec.ofNat 32 cnt) (BitVec.ofNat 32 base)

/-- The window of `SEL start`, by the three steps of R122, ties to the lowest slot (R125). -/
def isSelPlan (s : State) (start : Word) (base cnt : Nat) : Prop :=
  (s.caches base start.toNat = true ∧ (∀ k < base, s.caches k start.toNat = false) ∧ 1 ≤ cnt ∧
      base + cnt ≤ s.slots.length ∧ (∀ q < cnt, s.caches (base + q) (start.toNat + q) = true) ∧
      (base + cnt < s.slots.length → start.toNat + cnt ≤ 0xFFFFFFFF →
        s.caches (base + cnt) (start.toNat + cnt) = false)) ∨
    ((∀ k < s.slots.length, s.caches k start.toNat = false) ∧ cnt = 1 ∧
      ((∃ i, base = i + 1 ∧ i + 1 < s.slots.length ∧ 1 ≤ start.toNat ∧ s.caches i (start.toNat - 1) = true ∧
          ∀ k < i, s.caches k (start.toNat - 1) = false) ∨
        (base = 0 ∧ (start.toNat = 0 ∨ ∀ i, i + 1 < s.slots.length → s.caches i (start.toNat - 1) = false))))

/-- The first slot of the window of `SELX len, start`, by the three steps of R123. -/
def isSelxBase (s : State) (len : Nat) (start : Word) (base : Nat) : Prop :=
  (base + len ≤ s.slots.length ∧ s.caches base start.toNat = true ∧ ∀ k < base, s.caches k start.toNat = false) ∨
    ((∀ k, k + len ≤ s.slots.length → s.caches k start.toNat = false) ∧
      ((∃ i, base = i + 1 ∧ i + 1 + len ≤ s.slots.length ∧ 1 ≤ start.toNat ∧ s.caches i (start.toNat - 1) = true ∧
          ∀ k < i, s.caches k (start.toNat - 1) = false) ∨
        (base = 0 ∧ (start.toNat = 0 ∨ ∀ i, i + 1 + len ≤ s.slots.length → s.caches i (start.toNat - 1) = false))))

/-! ### The view (R140, R141) -/

/-- The view slots `VRD` fills, in order. -/
def missing (s : State) : List Nat :=
  (List.range s.slots.length).filter fun j =>
    s.view.base ≤ j && j < s.view.base + s.view.cnt && !s.caches j (s.need j)

/-- The block number slot `j` of the view must hold. -/
def needed (s : State) (j : Nat) : Word := BitVec.ofNat 32 (s.view.start.toNat + (j - s.view.base))

/-- The slots after `VRD` has filled the missing slots before `stop` from the medium. -/
def refilled (s : State) (stop : Nat) : List Slot :=
  slotMap s fun j =>
    if (missing s).contains j && j < stop then
      { valid := true, tag := needed s j, dirty := false, data := Memory.readBlock s.medium (needed s j).toNat }
    else s.slot j

/-- The one-block read into slot `j`. -/
def readTxn (s : State) (rep : Reply) (j : Nat) : Txn := ⟨.rd, needed s j, 1, [], rep⟩

/-- View slot `q` overlaps the byte range `[off, off+len)` (R141). -/
def touches (off len : Word) (q : Nat) : Bool :=
  0 < len.toNat && off.toNat < 512 * (q + 1) && 512 * q < off.toNat + len.toNat

/-- The block `d` with `v` stored little-endian at bytes `o .. o+3` (R60). -/
def putWord (d : Block) (o : Nat) (v : Word) : Block :=
  Block.gen fun p => if o ≤ p ∧ p < o + 4 then (v >>> (8 * (p - o))).setWidth 8 else blockByte d p

/-- The little-endian word at bytes `o .. o+3` of `d`, as a number (R13). -/
def getWord (d : Block) (o : Nat) : Nat :=
  (blockByte d o).toNat + 256 * (blockByte d (o + 1)).toNat + 65536 * (blockByte d (o + 2)).toNat
    + 16777216 * (blockByte d (o + 3)).toNat

/-! ### Runs (R161) -/

/-- Slot `i` begins a maximal run. -/
def beginsRun (s : State) (i : Nat) : Bool :=
  s.dirtyAt i && !(1 ≤ i && s.dirtyAt (i - 1) && (s.slot i).tag.toNat = (s.slot (i - 1)).tag.toNat + 1)

/-- The first slots of the maximal runs, left to right. -/
def runStarts (s : State) : List Nat := (List.range s.slots.length).filter (beginsRun s)

/-- The length of the maximal run that begins at slot `i`. -/
def runLen (s : State) (i : Nat) : Nat :=
  ((List.range (s.slots.length - i)).takeWhile fun q =>
    s.dirtyAt (i + q) && (s.slot (i + q)).tag.toNat = (s.slot i).tag.toNat + q).length

/-- The dirty slots, left to right. -/
def dirtySlots (s : State) : List Nat := (List.range s.slots.length).filter s.dirtyAt

/-- The multi-block write of the run that begins at slot `i`. -/
def runTxn (s : State) (rep : Reply) (i : Nat) : Txn :=
  ⟨.wr, (s.slot i).tag, runLen s i, (List.range (runLen s i)).map fun q => (s.slot (i + q)).data, rep⟩

/-- The slots after the dirty slots before `stop` have been cleaned. -/
def cleaned (s : State) (stop : Nat) : List Slot :=
  slotMap s fun j => if s.dirtyAt j && j < stop then { s.slot j with dirty := false } else s.slot j

/-- The state `FLUSH` leaves when every write succeeds (R160). -/
def flushed (s : State) (rest : List Input) : State :=
  ended
    { s with
      slots := cleaned s s.slots.length
      view := { s.view with valid := false }
      medium := writtenBack s.medium s (dirtySlots s)
      devLog := s.devLog ++ (runStarts s).map (runTxn s .ok)
      inputs := rest }
    .ok (BitVec.ofNat 32 (runStarts s).length) (BitVec.ofNat 32 (dirtySlots s).length)

/-- The blocks and the data of the acknowledged writes of a device log, in order. -/
def acknowledged (log : List Txn) : List (Nat × Block) :=
  (log.filter fun t => t.kind = .wr ∧ t.reply = .ok).flatMap fun t =>
    (List.range t.cnt).map fun q => (t.blk.toNat + q, t.data.getD q default)

/-! ### The header (R170 to R173) -/

/-- Entry `j` as a number. -/
def entryNat (h : Block) (j : Nat) : Nat := getWord h (4 + 4 * j)
/-- Its `start` field, bits 19:0. -/
def startOf (w : Nat) : Nat := w % 2 ^ 20
/-- Its `id` field, bits 29:24. -/
def idOf (w : Nat) : Nat := w / 2 ^ 24 % 64

/-- `n` is `L(hdr)` (R172). -/
def isLiveCount (h : Block) (n : Nat) : Prop :=
  n ≤ 64 ∧ (∀ j < n, startOf (entryNat h j) ≠ 0) ∧ (n < 64 → startOf (entryNat h n) = 0)

/-- `cksum(hdr)` (R173) with the checksum function `c`: over the version byte, then bytes 4 to 259. -/
def headerSum (c : Checksum) (h : Block) : Word :=
  crc32Cksum c (blockByte h 0 :: (List.range 256).map fun p => blockByte h (4 + p))

/-- The header with bit `b` of byte `p` flipped (R188). -/
def flipped (h : Block) (p b : Nat) : Block := Block.gen fun j => if j = p then flipBit (blockByte h j) b else blockByte h j

/-- The header with entry `j` removed, the later entries moved down by one and the last one 0 (R183). -/
def entryRemoved (h : Block) (j : Nat) : Block :=
  Block.gen fun p =>
    if 4 + 4 * j ≤ p ∧ p < 256 then blockByte h (p + 4) else if 256 ≤ p ∧ p < 260 then 0 else blockByte h p

/-- `x` ends the wait for request `r` with success (R206(a), R207(a), R212): the device acknowledges, or the ideal mock device
has the blocks, alone or in one instant with a store to `CTRL` of neither bit (log entry 14). -/
def isSuccess (s : State) (r : Request) (x : Input) : Prop :=
  ∃ a, (a = .ok ∨ (a = .ideal ∧ r.blk.toNat + r.cnt ≤ s.cfg.devBlocks)) ∧
    (x = .device a ∨ ∃ v : Word, v.getLsbD 0 = false ∧ v.getLsbD 1 = false ∧ x = .ctrlWith v a)

/-- From `s` to `t` a slot that was dirty and is no longer dirty with its tag has been written back with success, with the
data it had (R24). -/
def dirtyKept (s t : State) : Prop :=
  ∀ i < s.slots.length, s.dirtyAt i = true → ¬ (t.dirtyAt i = true ∧ (t.slot i).tag = (s.slot i).tag) →
    ∃ txn ∈ newTxns s t, s.wroteBack i txn

/-! ### Registers and errors -/

/-- The error codes of R285. -/
def codeOf : Err → Nat
  | .ok => 0 | .io => 1 | .hdrMissing => 2 | .hdrVersion => 3 | .hdrChecksum => 4 | .tooManyModels => 5
  | .seekOutOfBounds => 6 | .fileFull => 7 | .modelNameOverflow => 8 | .unexpectedEof => 9
  | .illegalCommand => 16 | .badOperand => 17 | .noView => 18 | .notValidated => 19 | .cancelled => 20

/-- The 22 values of `match` in R94. -/
def opcodes : List Nat :=
  [0x00, 0x10, 0x11, 0x12, 0x13, 0x14, 0x18, 0x19, 0x1A, 0x1B, 0x20, 0x21, 0x22, 0x23, 0x24, 0x25, 0x26, 0x27, 0x28, 0x29,
    0x2A, 0x2B]

/-- The state a reset leaves, apart from the medium, the counter of free values and the device log (R50). -/
def isReset (s t : State) : Prop :=
  t.slots.length = s.slots.length ∧
    (∀ i < t.slots.length, (t.slot i).valid = false ∧ (t.slot i).dirty = false ∧ (t.slot i).tag = 0) ∧
    t.view = ⟨false, 0, 0, 0⟩ ∧ t.hdrValidated = false ∧
    t.cmd0 = 0 ∧ t.cmd1 = 0 ∧ t.cmd2 = 0 ∧ t.res0 = 0 ∧ t.res1 = 0 ∧ t.errInfo = 0 ∧
    t.busy = false ∧ t.done = false ∧ t.ovr = false ∧ t.err = .ok ∧ t.seq = .idle ∧ t.cfg = s.cfg

/-- The input performs a reset (R46, R310). -/
def isResetInput (x : Input) : Prop :=
  x = .hardReset ∨ ∃ v : Word, v.getLsbD 1 = true ∧ (x = .write 4 0x1C v ∨ ∃ a, x = .ctrlWith v a)

/-- The bounds of the open File (R52), and of the File a suspended host sequence was called on. -/
def fileOk (s : State) : Prop :=
  ∀ f, s.file = some f ∨ (∃ j, s.job = some j ∧ j.file = some f) → 4 ≤ f.cursor ∧ f.cursor ≤ f.len

/-- The device's answer `a` fails request `r` with code `e`: an error, or the ideal mock device's on a request that passes
its last block (R205, R212). -/
def isFailure (s : State) (r : Request) (a : DevAnswer) (e : Word) : Prop :=
  a = .err e ∨ (a = .ideal ∧ e = 1 ∧ s.cfg.devBlocks < r.blk.toNat + r.cnt)

end Sys2Proof.Claims

open Sys2Proof Sys2Proof.Machine Sys2Proof.Claims

/-! ## Encoding -/

/-- R94, R100: decoding an encoded command gives it back, and the encoding of a decoded descriptor has its opcode and its
reserved bits. -/
def Obligations.DecodeEncodeRoundTrip : Prop :=
  (∀ i : Instr, decode (encode i) = .ok i) ∧
    ∀ (d : Descriptor) (i : Instr), decode d = .ok i → (encode i).cmd0 &&& 0xFFFF00FF#32 = d.cmd0 &&& 0xFFFF00FF#32

/-- R91 to R94: which descriptor is which command, and what operands it has. -/
def Obligations.DecodeByMaskAndMatch : Prop :=
  ∀ d : Descriptor,
    let m := d.cmd0 &&& 0xFFFF00FF#32
    let k := (d.cmd0 >>> (8 : Nat)).setWidth 8
    (decode d = .ok .nop ↔ m = 0x00#32) ∧ (decode d = .ok (.sel d.cmd1) ↔ m = 0x10#32) ∧
      (decode d = .ok (.selx k d.cmd1) ↔ m = 0x11#32) ∧ (decode d = .ok .vrd ↔ m = 0x12#32) ∧
      (decode d = .ok (.vmod d.cmd1 d.cmd2) ↔ m = 0x13#32) ∧ (decode d = .ok .flush ↔ m = 0x14#32) ∧
      (decode d = .ok (.vlb d.cmd1) ↔ m = 0x18#32) ∧ (decode d = .ok (.vsb d.cmd1 d.cmd2) ↔ m = 0x19#32) ∧
      (decode d = .ok (.vlw d.cmd1) ↔ m = 0x1A#32) ∧ (decode d = .ok (.vsw d.cmd1 d.cmd2) ↔ m = 0x1B#32) ∧
      (decode d = .ok .hld ↔ m = 0x20#32) ∧ (decode d = .ok .hval ↔ m = 0x21#32) ∧
      (decode d = .ok .hinit ↔ m = 0x22#32) ∧ (decode d = .ok .hclr ↔ m = 0x23#32) ∧
      (decode d = .ok .hsum ↔ m = 0x24#32) ∧ (decode d = .ok .hwb ↔ m = 0x25#32) ∧
      (decode d = .ok .hcnt ↔ m = 0x26#32) ∧ (decode d = .ok (.hget k) ↔ m = 0x27#32) ∧
      (decode d = .ok .hnew ↔ m = 0x28#32) ∧ (decode d = .ok (.hdel k) ↔ m = 0x29#32) ∧
      (decode d = .ok (.hlw d.cmd1) ↔ m = 0x2A#32) ∧ (decode d = .ok (.hsw d.cmd1 d.cmd2) ↔ m = 0x2B#32) ∧
      ((∃ i, decode d = .ok i) ↔ m.toNat ∈ opcodes)

/-- R94: words written out from the spec's vectors EN1 to EN17. -/
def Obligations.SampleWordsDecode : Prop :=
  decode ⟨0x00000010, 5, 0⟩ = .ok (.sel 5) ∧ decode ⟨0x00000211, 4, 0⟩ = .ok (.selx 2 4) ∧
    decode ⟨0x00000013, 0x1FE, 4⟩ = .ok (.vmod 510 4) ∧ decode ⟨0x00000127, 0, 0⟩ = .ok (.hget 1) ∧
    decode ⟨0x00003F29, 0, 0⟩ = .ok (.hdel 63) ∧ decode ⟨0x0000FF00, 0xFFFFFFFF, 0xFFFFFFFF⟩ = .ok .nop ∧
    decode ⟨0x00000014, 9, 9⟩ = .ok .flush ∧ decode ⟨0x80000000, 0, 0⟩ = .error .reservedBits ∧
    decode ⟨0x0000002C, 0, 0⟩ = .error .unknownOpcode

/-- R95, R291: a launched descriptor that is no command. -/
def Obligations.IllegalCommandReport : Prop :=
  ∀ (s : State) (v : Word) (rest : List Input), s.seq = .idle → s.busy = false → s.inputs = .write 4 0 v :: rest →
    (v &&& 0xFFFF00FF#32).toNat ∉ opcodes →
    step s = .next (ended { s with inputs := rest, cmd0 := v, ovr := false } .illegalCommand v 0)

/-! ## The machine's step -/

/-- R41, R280: a store to `CMD0` while not busy runs the command it launches. -/
def Obligations.StepRunsLaunchedCommand : Prop :=
  ∀ (s : State) (v : Word) (i : Instr) (rest : List Input), s.seq = .idle → s.busy = false →
    s.inputs = .write 4 0 v :: rest → decode ⟨v, s.cmd1, s.cmd2⟩ = .ok i →
    step s = exec i
      { s with inputs := rest, cmd0 := v, busy := true, done := false, ovr := false, err := .ok, seq := .run }

/-- R41, R42: the operand registers take a store while not busy; while busy it is dropped and `ovr` is set. For `CMD1` and
`CMD2` that flag is R42's; R30's flag table names a dropped `CMD0` store only, and the model follows R42 (DEDUCED, log
entry 11). -/
def Obligations.OperandRegisterStores : Prop :=
  ∀ (s : State) (v : Word) (rest : List Input),
    (s.seq = .idle → s.busy = false → s.inputs = .write 4 4 v :: rest →
      step s = .next { s with inputs := rest, cmd1 := v }) ∧
    (s.seq = .idle → s.busy = false → s.inputs = .write 4 8 v :: rest →
      step s = .next { s with inputs := rest, cmd2 := v }) ∧
    (∀ (r : Request) (off : Nat), s.seq = .wait r → s.busy = true → off = 0 ∨ off = 4 ∨ off = 8 →
      s.inputs = .write 4 off v :: rest → step s = .next { s with inputs := rest, ovr := true })

/-- R40: stores of another width, to an unlisted or misaligned offset and to a read-only register are ignored, in every
state. -/
def Obligations.StoresElsewhereAreIgnored : Prop :=
  ∀ (s : State) (width off : Nat) (v : Word) (rest : List Input), s.inputs = .write width off v :: rest →
    width ≠ 4 ∨ (off ≠ 0 ∧ off ≠ 4 ∧ off ≠ 8 ∧ off ≠ 0x1C) → step s = .next { s with inputs := rest }

/-- R15, R208 (with log entry 6): a command that has to wait for the device, at its first or at a later suspension point (`pre`
is what it has taken before), and is answered later goes on exactly as one whose answer is there at once. -/
def Obligations.LateAnswerEqualsPromptAnswer : Prop :=
  ∀ (i : Instr) (s t : State) (r : Request) (a : DevAnswer) (pre rest : List Input), s.seq = .run → s.job = none →
    exec i { s with inputs := pre } = .next t → t.inputs = [] → t.seq = .wait r →
    step { t with inputs := .device a :: rest } = exec i { s with inputs := pre ++ .device a :: rest }

/-- R4, R101, R208 (with log entries 6 and 12): a host sequence that has to wait for the device, for the first time or again
(`pre` is what its commands have taken before), and is answered later goes on with the rest of its commands exactly as one
whose answer is there at once. -/
def Obligations.LateAnswerContinuesHostSequence : Prop :=
  ∀ (q : HostSeq) (s t : State) (r : Request) (a : DevAnswer) (pre rest : List Input), s.seq = .idle → s.busy = false →
    s.job = none → State.call { s with inputs := pre } q = .next t → t.inputs = [] → t.seq = .wait r →
    step { t with inputs := .device a :: rest } = State.call { s with inputs := pre ++ .device a :: rest } q

/-- R206, R207, R211, R212: every answer that is a success moves the request's data and lets the command go on in the same way
as a plain acknowledgement, at a suspension point a command has just reached and in a step that ends a wait. -/
def Obligations.SuccessfulAnswersAgree : Prop :=
  ∀ (s : State) (r : Request) (x : Input) (rest : List Input), isSuccess s r x →
    (∀ k : State → State, State.await { s with inputs := x :: rest } r k =
      k ((State.logged { s with inputs := rest } r .ok).transfer r)) ∧
    (s.seq = .wait r → step { s with inputs := x :: rest } = step { s with inputs := .device .ok :: rest })

/-- R209, R297, R295: a cancel ends a waiting command, whatever answer arrives in the same instant; tags, the view and the
device's other blocks stay, and no slot's data changes but the buffer of a cancelled read. A host sequence that waits for
the command ends with the error (R101, R300); that `Filesystem.new` too ends with `CANCELLED` itself and not with an
`InitError` is the model's reading of R251 (DEDUCED, log entry 25). -/
def Obligations.CancelEndsWait : Prop :=
  ∀ (s : State) (r : Request) (x : Input) (rest : List Input), s.seq = .wait r → s.inputs = x :: rest → isCancel x →
    ∃ t, step s = .next t ∧ t.inputs = rest ∧ t.err = .cancelled ∧ t.res0 = 0 ∧ t.res1 = 0 ∧ t.busy = false ∧
      t.done = true ∧ t.seq = .idle ∧ t.errInfo = s.errInfo ∧ t.view = s.view ∧ t.hdrValidated = s.hdrValidated ∧
      t.cmd0 = s.cmd0 ∧ t.cmd1 = s.cmd1 ∧ t.cmd2 = s.cmd2 ∧ t.ovr = s.ovr ∧ t.file = s.file ∧ t.cfg = s.cfg ∧
      t.mounted = s.mounted ∧ t.job = none ∧
      t.hostResult = (if s.job.isSome then .err .cancelled else s.hostResult) ∧ t.slots.length = s.slots.length ∧
      (∀ j, (t.slot j).valid = (s.slot j).valid ∧ (t.slot j).tag = (s.slot j).tag ∧ (t.slot j).dirty = (s.slot j).dirty) ∧
      (r.kind = .wr → t.slots = s.slots ∧ t.hdr = s.hdr ∧
        ∀ a, (a < 512 * r.blk.toNat ∨ 512 * (r.blk.toNat + r.cnt) ≤ a) → Memory.read t.medium a = Memory.read s.medium a) ∧
      (r.kind = .rd → t.medium = s.medium ∧ (∀ i, r.buf = .slots i → t.hdr = s.hdr ∧
        ∀ j, j < i ∨ i + r.cnt ≤ j → t.slot j = s.slot j) ∧ (r.buf = .header → t.slots = s.slots))

/-- R46, R297: a cancel while nothing waits has no effect. -/
def Obligations.CancelWhenIdleHasNoEffect : Prop :=
  ∀ (s : State) (v : Word) (rest : List Input), s.seq = .idle → v.getLsbD 1 = false → s.inputs = .write 4 0x1C v :: rest →
    step s = .next { s with inputs := rest }

/-- R205, R212, R286: a device error, and a failure of the ideal mock device, ends the waiting command with `IO` and its
code, as it stands. Of a failed write the buffers and every other block of the medium stay (R207), and with the ideal device
the whole medium; of a failed read everything but its buffer (R206). A host sequence that waits for the command ends with
the error (R101, R300), `Filesystem.new` with an `InitError` (R251, R304). -/
def Obligations.DeviceErrorEndsWait : Prop :=
  ∀ (s : State) (r : Request) (a : DevAnswer) (e : Word) (rest : List Input), s.seq = .wait r →
    s.inputs = .device a :: rest → isFailure s r a e →
    ∃ t, step s = .next t ∧ t.inputs = rest ∧ t.err = .io ∧ t.errInfo = e ∧ t.res0 = 0 ∧ t.res1 = 0 ∧ t.busy = false ∧
      t.done = true ∧ t.seq = .idle ∧ t.view = s.view ∧ t.hdrValidated = s.hdrValidated ∧
      t.cmd0 = s.cmd0 ∧ t.cmd1 = s.cmd1 ∧ t.cmd2 = s.cmd2 ∧ t.ovr = s.ovr ∧ t.file = s.file ∧ t.cfg = s.cfg ∧
      t.mounted = s.mounted ∧ t.job = none ∧ (s.job = none → t.hostResult = s.hostResult) ∧
      (∀ j, s.job = some j → t.hostResult = if j.seq = .fsNew then .initError .io else .err .io) ∧
      t.slots.length = s.slots.length ∧
      (∀ j, (t.slot j).valid = (s.slot j).valid ∧ (t.slot j).tag = (s.slot j).tag ∧ (t.slot j).dirty = (s.slot j).dirty) ∧
      (r.kind = .wr → t.slots = s.slots ∧ t.hdr = s.hdr ∧ (a = .ideal → t.medium = s.medium) ∧
        ∀ b, (b < 512 * r.blk.toNat ∨ 512 * (r.blk.toNat + r.cnt) ≤ b) → Memory.read t.medium b = Memory.read s.medium b) ∧
      (r.kind = .rd → t.medium = s.medium ∧ (∀ i, r.buf = .slots i → t.hdr = s.hdr ∧
        ∀ j, j < i ∨ i + r.cnt ≤ j → t.slot j = s.slot j) ∧ (r.buf = .header → t.slots = s.slots))

/-- R46, R310, R312, R50, R54: a reset, in every state; the medium is touched only where a withdrawn write was going, the
host's mount ends, and no host sequence goes on (log entry 18). -/
def Obligations.ResetFromAnyState : Prop :=
  ∀ (s : State) (x : Input) (rest : List Input), s.inputs = x :: rest → isResetInput x →
    ∃ t, step s = .next t ∧ isReset s t ∧ t.inputs = rest ∧ t.mounted = false ∧ t.job = none ∧
      (∀ a, (∀ r, s.seq = .wait r → r.kind = .wr → a < 512 * r.blk.toNat ∨ 512 * (r.blk.toNat + r.cnt) ≤ a) →
        Memory.read t.medium a = Memory.read s.medium a)

/-- R50: the values the spec gives for reset hold in the model's reset state; that it has two slots is the model's choice
(log entry 7). -/
def Obligations.ResetStateValues : Prop := isReset State.reset State.reset ∧ State.reset.slots.length = 2

/-! ## Invariants -/

/-- The machine's invariant holds right after reset; with it R173's checksum function, which the model takes at reset, detects
single-bit changes (R188; PRESUMED, log entry 4). -/
def Obligations.InvariantAtReset : Prop := State.reset.Inv ∧ State.reset.UniqueInv ∧ fileOk State.reset

/-- R23, R25, R26, R32, R43, R101, R210: every step keeps the machine's invariant. -/
def Obligations.StepKeepsMachineInvariant : Prop := ∀ s t : State, s.Inv → step s = .next t → t.Inv

/-- R55: with at most two slots every step keeps the tags of valid slots distinct. -/
def Obligations.StepKeepsTagsUnique : Prop :=
  ∀ s t : State, s.Inv → s.slots.length ≤ 2 → s.UniqueInv → step s = .next t → t.UniqueInv

/-- R24: a slot that was dirty and is no longer dirty with its tag has been written back with success, with the data it had.
First clause: every step that is no reset, takes no call of a host sequence and goes on with none (those run many commands
in one step). Second clause: every command, and so each command of a host sequence. Third clause: what is left of a command
that waits, when its wait ends, whether or not a host sequence waits for it. -/
def Obligations.DirtyDataIsWrittenBeforeItIsDropped : Prop :=
  (∀ s t : State, s.Inv → s.job = none → (∀ x rest, s.inputs = x :: rest → ¬ isResetInput x ∧ ∀ q, x ≠ .call q) →
    step s = .next t → dirtyKept s t) ∧
  (∀ (i : Instr) (s t : State), s.ViewOk → exec i s = .next t → dirtyKept s t) ∧
  (∀ (s u : State) (r : Request) (rep : Reply), s.Inv → s.seq = .wait r → s.reply r = some (rep, u) →
    dirtyKept s (settle rep { u with seq := .run } (resume r.cont)))

/-- R52, R232: every step keeps `4 <= cursor <= len` of an open File. -/
def Obligations.StepKeepsFileBounds : Prop := ∀ s t : State, fileOk s → step s = .next t → fileOk t

/-! ## Selection -/

/-- R120, R121, R122: `SEL`, when the device acknowledges its write-backs. -/
def Obligations.SelSelectsWindow : Prop :=
  ∀ (s : State) (start : Word),
    (∃ base cnt, isSelPlan s start base cnt) ∧
      ∀ (base cnt : Nat) (rest : List Input), isSelPlan s start base cnt →
        s.inputs = oks (victims s base cnt start).length rest →
        exec (.sel start) s = .next (selected s base cnt start rest)

/-- R120, R121, R123: `SELX` with operands in range, when the device acknowledges its write-backs. -/
def Obligations.SelxSelectsWindow : Prop :=
  ∀ (s : State) (len : Byte) (start : Word), 1 ≤ len.toNat → len.toNat ≤ s.slots.length →
    start.toNat + len.toNat ≤ 2 ^ 32 →
    (∃ base, isSelxBase s len.toNat start base) ∧
      ∀ (base : Nat) (rest : List Input), isSelxBase s len.toNat start base →
        s.inputs = oks (victims s base len.toNat start).length rest →
        exec (.selx len start) s = .next (selected s base len.toNat start rest)

/-- R121, R24: a selection whose write-back number `k` fails or is cancelled: the slots before it keep what was done, its
own slot stays as it was, and no view is left. That the failing block of the medium is a free value, drawn by `draws`, is the
model's form of R211(c) and U3 (DESIGN CHOICE, log entries 3 and 1). -/
def Obligations.SelectionWriteBackFails : Prop :=
  ∀ (s : State) (i : Instr) (start : Word) (base cnt k j : Nat) (x : Input) (rep : Reply) (rest : List Input),
    (i = .sel start ∧ isSelPlan s start base cnt ∨
      ∃ len : Byte, i = .selx len start ∧ len.toNat = cnt ∧ 1 ≤ cnt ∧ cnt ≤ s.slots.length ∧
        start.toNat + cnt ≤ 2 ^ 32 ∧ isSelxBase s cnt start base) →
    (victims s base cnt start)[k]? = some j → s.inputs = oks k (x :: rest) → failsWith x rep →
    exec i s = .next (endedBy
      { s with
        slots := emptied s base cnt start j
        view := { s.view with valid := false }
        medium := Memory.writeBlock (writtenBack s.medium s ((victims s base cnt start).take k)) (s.slot j).tag.toNat
          (freeBlock s.draws)
        draws := s.draws + 1
        devLog := s.devLog ++ ((victims s base cnt start).take k).map (writeTxn s .ok) ++ [writeTxn s rep j]
        inputs := rest } rep)

/-! ## View operations -/

/-- R146, R293: the six view commands without a view. -/
def Obligations.ViewCommandsNeedAView : Prop :=
  ∀ (s : State) (a b : Word), s.view.valid = false →
    ∀ i ∈ [Instr.vrd, .vmod a b, .vlb a, .vsb a b, .vlw a, .vsw a b], exec i s = .next (ended s .noView 0 0)

/-- R292: the operand checks, made before any state change, of the commands that have one. -/
def Obligations.BadOperandChangesNothing : Prop :=
  ∀ (s : State) (a b : Word) (k : Byte),
    (k.toNat = 0 ∨ s.slots.length < k.toNat ∨ 2 ^ 32 < a.toNat + k.toNat →
      exec (.selx k a) s = .next (ended s .badOperand 0 0)) ∧
    (s.view.valid = true → 512 * s.view.cnt < a.toNat + b.toNat →
      exec (.vmod a b) s = .next (ended s .badOperand 0 0)) ∧
    (s.view.valid = true → 512 * s.view.cnt ≤ a.toNat →
      exec (.vlb a) s = .next (ended s .badOperand 0 0) ∧ exec (.vsb a b) s = .next (ended s .badOperand 0 0)) ∧
    (s.view.valid = true → a.toNat % 4 ≠ 0 ∨ 512 * s.view.cnt < a.toNat + 4 →
      exec (.vlw a) s = .next (ended s .badOperand 0 0) ∧ exec (.vsw a b) s = .next (ended s .badOperand 0 0)) ∧
    (s.hdrValidated = true → 64 ≤ k.toNat →
      exec (.hget k) s = .next (ended s .badOperand 0 0) ∧ exec (.hdel k) s = .next (ended s .badOperand 0 0)) ∧
    (a.toNat % 4 ≠ 0 ∨ 508 < a.toNat →
      exec (.hlw a) s = .next (ended s .badOperand 0 0) ∧ exec (.hsw a b) s = .next (ended s .badOperand 0 0))

/-- R140: `VRD`, when the device acknowledges its reads. -/
def Obligations.VrdFillsMissingSlots : Prop :=
  ∀ (s : State) (rest : List Input), s.view.valid = true → s.ViewOk → s.inputs = oks (missing s).length rest →
    exec .vrd s = .next (ended
      { s with
        slots := refilled s s.slots.length
        devLog := s.devLog ++ (missing s).map (readTxn s .ok)
        inputs := rest }
      .ok (BitVec.ofNat 32 s.view.cnt) 0)

/-- R140, R329: `VRD` whose read number `k` fails or is cancelled: that slot stays Empty, the view stays. That the slot's bytes
are a free value, drawn by `draws`, is the model's form of R206 and U2 (DESIGN CHOICE, log entries 2 and 1). -/
def Obligations.VrdReadFails : Prop :=
  ∀ (s : State) (k j : Nat) (x : Input) (rep : Reply) (rest : List Input), s.view.valid = true → s.ViewOk →
    (missing s)[k]? = some j → s.inputs = oks k (x :: rest) → failsWith x rep →
    exec .vrd s = .next (endedBy
      { s with
        slots := (refilled s j).set j { s.slot j with valid := false, data := freeBlock s.draws }
        draws := s.draws + 1
        devLog := s.devLog ++ ((missing s).take k).map (readTxn s .ok) ++ [readTxn s rep j]
        inputs := rest } rep)

/-- R141: `VMOD`. -/
def Obligations.VmodMarksOverlappedSlots : Prop :=
  ∀ (s : State) (off len : Word),
    exec (.vmod off len) s = .next
      (if s.view.valid = false then ended s .noView 0 0
      else if 512 * s.view.cnt < off.toNat + len.toNat then ended s .badOperand 0 0
      else ended
        { s with
          slots := slotMap s fun j =>
            if s.view.base ≤ j ∧ j < s.view.base + s.view.cnt ∧ touches off len (j - s.view.base) = true then
              { s.slot j with tag := needed s j, valid := true, dirty := true }
            else s.slot j }
        .ok (BitVec.ofNat 32 ((List.range s.view.cnt).filter (touches off len)).length) 0)

/-- R142: `VLB`. -/
def Obligations.VlbLoadsByte : Prop :=
  ∀ (s : State) (off : Word),
    exec (.vlb off) s = .next
      (if s.view.valid = false then ended s .noView 0 0
      else if 512 * s.view.cnt ≤ off.toNat then ended s .badOperand 0 0
      else ended s .ok
        ((blockByte (s.slot (s.view.base + off.toNat / 512)).data (off.toNat % 512)).setWidth 32) 0)

/-- R143: `VSB`; of the slot it stores to, one data byte changes. -/
def Obligations.VsbStoresByte : Prop :=
  ∀ (s : State) (off val : Word),
    let j := s.view.base + off.toNat / 512
    exec (.vsb off val) s = .next
      (if s.view.valid = false then ended s .noView 0 0
      else if 512 * s.view.cnt ≤ off.toNat then ended s .badOperand 0 0
      else ended
        { s with
          slots := s.slots.set j
            { s.slot j with
              data := Block.gen fun p => if p = off.toNat % 512 then val.setWidth 8 else blockByte (s.slot j).data p } }
        .ok 0 0)

/-- R144, R62: `VLW`. -/
def Obligations.VlwLoadsWord : Prop :=
  ∀ (s : State) (off : Word),
    exec (.vlw off) s = .next
      (if s.view.valid = false then ended s .noView 0 0
      else if off.toNat % 4 ≠ 0 ∨ 512 * s.view.cnt < off.toNat + 4 then ended s .badOperand 0 0
      else ended s .ok (BitVec.ofNat 32 (getWord (s.slot (s.view.base + off.toNat / 512)).data (off.toNat % 512))) 0)

/-- R145: `VSW`; of the slot it stores to, four data bytes change. -/
def Obligations.VswStoresWord : Prop :=
  ∀ (s : State) (off val : Word),
    let j := s.view.base + off.toNat / 512
    exec (.vsw off val) s = .next
      (if s.view.valid = false then ended s .noView 0 0
      else if off.toNat % 4 ≠ 0 ∨ 512 * s.view.cnt < off.toNat + 4 then ended s .badOperand 0 0
      else ended
        { s with slots := s.slots.set j { s.slot j with data := putWord (s.slot j).data (off.toNat % 512) val } }
        .ok 0 0)

/-- R60: a word stored by `VSW` is read back byte by byte in little-endian order by `VLB`, and whole by `VLW`. -/
def Obligations.StoredWordReadsBack : Prop :=
  ∀ (s : State) (off val : Word), s.view.valid = true → s.view.base + s.view.cnt ≤ s.slots.length →
    off.toNat % 4 = 0 → off.toNat + 4 ≤ 512 * s.view.cnt →
    ∃ t, exec (.vsw off val) s = .next t ∧
      (∃ u, exec (.vlw off) t = .next u ∧ u.err = .ok ∧ u.res0 = val) ∧
      ∀ q < 4, ∃ u, exec (.vlb (off + BitVec.ofNat 32 q)) t = .next u ∧ u.err = .ok ∧
        u.res0.toNat = val.toNat / 2 ^ (8 * q) % 256

/-! ## Flush -/

/-- R160, R161, R72: `FLUSH`, when the device acknowledges every run. -/
def Obligations.FlushWritesEveryDirtyRun : Prop :=
  ∀ (s : State) (rest : List Input), s.inputs = oks (runStarts s).length rest →
    exec .flush s = .next (flushed s rest)

/-- R160, R77: `FLUSH` whose run number `k` fails or is cancelled: that run and all after it stay dirty. That the
failing run's blocks of the medium are free values, drawn by `draws`, is the model's form of R211(c) and U3 (DESIGN CHOICE,
log entries 3 and 1). -/
def Obligations.FlushRunFails : Prop :=
  ∀ (s : State) (k i : Nat) (x : Input) (rep : Reply) (rest : List Input), (runStarts s)[k]? = some i →
    s.inputs = oks k (x :: rest) → failsWith x rep →
    exec .flush s = .next (endedBy
      { s with
        slots := cleaned s i
        view := { s.view with valid := false }
        medium := Memory.writeBlocks (writtenBack s.medium s ((dirtySlots s).filter (· < i))) (s.slot i).tag.toNat
          ((List.range (runLen s i)).map fun q => freeBlock (s.draws + q))
        draws := s.draws + runLen s i
        devLog := s.devLog ++ ((runStarts s).take k).map (runTxn s .ok) ++ [runTxn s rep i]
        inputs := rest } rep)

/-- R162: a `FLUSH` that failed or was cancelled at its run number `k`, and the one that retries it: over the two, the
acknowledged writes are each originally dirty slot's block and data, once each, and no slot is left dirty. -/
def Obligations.FlushRetryWritesEachDirtyBlockOnce : Prop :=
  ∀ (s : State) (k : Nat) (x : Input) (rep : Reply) (rest : List Input), k < (runStarts s).length →
    s.inputs = oks k (x :: oks ((runStarts s).length - k) rest) → failsWith x rep →
    ∃ t u, exec .flush s = .next t ∧ exec .flush t = .next u ∧ u.err = .ok ∧ dirtySlots u = [] ∧
      acknowledged (newTxns s u) = (dirtySlots s).map fun j => ((s.slot j).tag.toNat, (s.slot j).data)

/-- R163: `NOP`. -/
def Obligations.NopOnlyReports : Prop := ∀ s : State, exec .nop s = .next (ended s .ok 0 0)

/-! ## Header -/

/-- R186, R294: the five gated commands while the header is not validated. -/
def Obligations.HeaderGate : Prop :=
  ∀ (s : State) (k : Byte), s.hdrValidated = false →
    ∀ i ∈ [Instr.hcnt, .hget k, .hnew, .hdel k, .hwb], exec i s = .next (ended s .notValidated 0 0)

/-- R178, R54: `HLD`, when the device acknowledges; the host's mount ends. -/
def Obligations.HldLoadsHeader : Prop :=
  ∀ (s : State) (rest : List Input), s.inputs = .device .ok :: rest →
    exec .hld s = .next (ended
      { s with
        hdr := Memory.readBlock s.medium 0
        hdrValidated := false
        mounted := false
        devLog := s.devLog ++ [⟨.rd, 0, 1, [], .ok⟩]
        inputs := rest }
      .ok 0 0)

/-- R174, R295, R54: `HVAL`, its three tests in order; success begins the host's mount (R54), and that a failure leaves it is
the model's reading of R54 (DESIGN CHOICE, log entry 28). The checksum function is the instance's, whichever it is. Then R188 (with C7): one flipped bit of a header whose version and checksum are right is
reported as `HDR_CHECKSUM` in the entries and as `HDR_VERSION` or `HDR_MISSING` in the version byte, provided the checksum
function detects single-bit changes (PRESUMED, log entry 4). -/
def Obligations.HvalChecksHeader : Prop :=
  (∀ (s : State) (n : Nat), isLiveCount s.hdr n →
    let v := blockByte s.hdr 0
    exec .hval s = .next
      (if v = 0 then ended { s with hdrValidated := false } .hdrMissing 0 0
      else if v ≠ s.cfg.supportedVersion then ended { s with hdrValidated := false } .hdrVersion (v.setWidth 32) 0
      else if getWord s.hdr 508 ≠ (headerSum s.cfg.crc s.hdr).toNat then
        ended { s with hdrValidated := false } .hdrChecksum (headerSum s.cfg.crc s.hdr) 0
      else ended { s with hdrValidated := true, mounted := true } .ok (BitVec.ofNat 32 n) (v.setWidth 32))) ∧
  ∀ (s : State) (p b : Nat), DetectsFlips s.cfg.crc → b < 8 → blockByte s.hdr 0 = s.cfg.supportedVersion →
    getWord s.hdr 508 = (headerSum s.cfg.crc s.hdr).toNat →
    let h := flipped s.hdr p b
    (4 ≤ p → p < 260 → s.cfg.supportedVersion ≠ 0 → exec .hval { s with hdr := h } =
      .next (ended { s with hdr := h, hdrValidated := false } .hdrChecksum (headerSum s.cfg.crc h) 0)) ∧
    (p = 0 → exec .hval { s with hdr := h } = .next (
      if blockByte h 0 = 0 then ended { s with hdr := h, hdrValidated := false } .hdrMissing 0 0
      else ended { s with hdr := h, hdrValidated := false } .hdrVersion ((blockByte h 0).setWidth 32) 0))

/-- R172: every header has exactly one live count, and it is the one the directory commands use. -/
def Obligations.LiveCountIsFirstEmptyEntry : Prop := ∀ (h : Block) (n : Nat), isLiveCount h n ↔ n = liveCount h

/-- R175: `HINIT`. -/
def Obligations.HinitSetsVersion : Prop :=
  ∀ s : State, exec .hinit s = .next (ended
    { s with hdr := Block.gen fun p => if p = 0 then s.cfg.supportedVersion else blockByte s.hdr p } .ok 0 0)

/-- R176, R54: `HCLR`; the host's mount ends. -/
def Obligations.HclrZeroesHeader : Prop :=
  ∀ s : State, exec .hclr s = .next (ended
    { s with hdr := Block.gen fun _ => 0, hdrValidated := false, mounted := false } .ok 0 0)

/-- R177: `HSUM`; the checksum function is the instance's, whichever it is. -/
def Obligations.HsumStoresChecksum : Prop :=
  ∀ s : State, exec .hsum s = .next (ended
    { s with hdr := putWord s.hdr 508 (headerSum s.cfg.crc s.hdr) } .ok (headerSum s.cfg.crc s.hdr) 0)

/-- R179: `HWB`, when the device acknowledges. -/
def Obligations.HwbWritesHeader : Prop :=
  ∀ (s : State) (rest : List Input), s.hdrValidated = true → s.inputs = .device .ok :: rest →
    let h := putWord s.hdr 508 (headerSum s.cfg.crc s.hdr)
    exec .hwb s = .next (ended
      { s with
        hdr := h
        medium := Memory.writeBlock s.medium 0 h
        devLog := s.devLog ++ [⟨.wr, 0, 1, [h], .ok⟩]
        inputs := rest }
      .ok (headerSum s.cfg.crc s.hdr) 0)

/-- R178, R179, R54: `HLD` and `HWB` when the transaction fails or is cancelled; an `HLD` has then ended the host's mount
(R54). That the header buffer after a failed `HLD`, and
block 0 of the medium after a failed `HWB`, are free values, drawn by `draws`, is the model's form of R206, R211(c), U2 and U3
(DESIGN CHOICE, log entries 2, 3 and 1). -/
def Obligations.HeaderTransferFails : Prop :=
  ∀ (s : State) (x : Input) (rep : Reply) (rest : List Input), s.inputs = x :: rest → failsWith x rep →
    exec .hld s = .next (endedBy
      { s with
        hdr := freeBlock s.draws
        hdrValidated := false
        mounted := false
        draws := s.draws + 1
        devLog := s.devLog ++ [⟨.rd, 0, 1, [], rep⟩]
        inputs := rest } rep) ∧
    (s.hdrValidated = true →
      let h := putWord s.hdr 508 (headerSum s.cfg.crc s.hdr)
      exec .hwb s = .next (endedBy
        { s with
          hdr := h
          medium := Memory.writeBlock s.medium 0 (freeBlock s.draws)
          draws := s.draws + 1
          devLog := s.devLog ++ [⟨.wr, 0, 1, [h], rep⟩]
          inputs := rest } rep))

/-- R180: `HCNT`. -/
def Obligations.HcntCountsLiveEntries : Prop :=
  ∀ (s : State) (n : Nat), isLiveCount s.hdr n →
    exec .hcnt s = .next
      (if s.hdrValidated = false then ended s .notValidated 0 0 else ended s .ok (BitVec.ofNat 32 n) 0)

/-- R181: `HGET`. -/
def Obligations.HgetReadsEntry : Prop :=
  ∀ (s : State) (n : Nat) (idx : Byte), isLiveCount s.hdr n →
    exec (.hget idx) s = .next
      (if s.hdrValidated = false then ended s .notValidated 0 0
      else if 64 ≤ idx.toNat then ended s .badOperand 0 0
      else if idx.toNat < n then ended s .ok (BitVec.ofNat 32 (entryNat s.hdr idx.toNat)) 1
      else ended s .ok 0 0)

/-- R182: `HNEW` allocates the lowest free id and appends its entry; a full directory is refused. -/
def Obligations.HnewAllocatesLowestFreeId : Prop :=
  ∀ (s : State) (n : Nat), isLiveCount s.hdr n →
    (s.hdrValidated = false → exec .hnew s = .next (ended s .notValidated 0 0)) ∧
    (s.hdrValidated = true → n = 64 → exec .hnew s = .next (ended s .tooManyModels 0 0)) ∧
    (s.hdrValidated = true → n < 64 → ∃ id < 64, (∀ j < n, idOf (entryNat s.hdr j) ≠ id) ∧
      (∀ k < id, ∃ j < n, idOf (entryNat s.hdr j) = k) ∧
      let w := BitVec.ofNat 32 (4 * id + 4 + 4 * 2 ^ 20 + id * 2 ^ 24)
      exec .hnew s = .next (ended { s with hdr := putWord s.hdr (4 + 4 * n) w } .ok w (BitVec.ofNat 32 n)))

/-- R183: `HDEL`; the new live count is one less. -/
def Obligations.HdelRemovesFirstEntryWithId : Prop :=
  ∀ (s : State) (n : Nat) (id : Byte), isLiveCount s.hdr n →
    (s.hdrValidated = false → exec (.hdel id) s = .next (ended s .notValidated 0 0)) ∧
    (s.hdrValidated = true → 64 ≤ id.toNat → exec (.hdel id) s = .next (ended s .badOperand 0 0)) ∧
    (s.hdrValidated = true → id.toNat < 64 → (∀ j < n, idOf (entryNat s.hdr j) ≠ id.toNat) →
      exec (.hdel id) s = .next (ended s .ok 0 (BitVec.ofNat 32 n))) ∧
    (s.hdrValidated = true → id.toNat < 64 → ∀ j < n, idOf (entryNat s.hdr j) = id.toNat →
      (∀ k < j, idOf (entryNat s.hdr k) ≠ id.toNat) →
      exec (.hdel id) s = .next (ended { s with hdr := entryRemoved s.hdr j } .ok 1 (BitVec.ofNat 32 (n - 1))))

/-- R184, R185: `HLW` and `HSW`, whatever `hdr_validated`. -/
def Obligations.HeaderWordAccess : Prop :=
  ∀ (s : State) (off val : Word),
    exec (.hlw off) s = .next
      (if off.toNat % 4 ≠ 0 ∨ 508 < off.toNat then ended s .badOperand 0 0
      else ended s .ok (BitVec.ofNat 32 (getWord s.hdr off.toNat)) 0) ∧
    exec (.hsw off val) s = .next
      (if off.toNat % 4 ≠ 0 ∨ 508 < off.toNat then ended s .badOperand 0 0
      else ended { s with hdr := putWord s.hdr off.toNat val } .ok 0 0)

/-- R189: a cleared header is well packed, and `HNEW` and `HDEL` keep a header well packed, with no id twice, and its live
entries the ones `HNEW` makes. -/
def Obligations.DirectoryStaysPacked : Prop :=
  HeaderPacked (Block.gen fun _ => 0) ∧ HeaderRegular (Block.gen fun _ => 0) ∧
    ∀ (s t : State) (i : Instr), HeaderPacked s.hdr → (i = .hnew ∨ ∃ id, i = .hdel id) → exec i s = .next t →
      HeaderPacked t.hdr ∧ (HeaderRegular s.hdr → HeaderRegular t.hdr)

/-- R187: a validated header of the supported version, written and acknowledged, loads and validates again with the same
version and directory. -/
def Obligations.HeaderWriteThenLoadRoundTrip : Prop :=
  ∀ (s : State) (n : Nat) (rest : List Input), s.hdrValidated = true → blockByte s.hdr 0 = s.cfg.supportedVersion →
    s.cfg.supportedVersion ≠ 0 → isLiveCount s.hdr n → s.inputs = .device .ok :: .device .ok :: rest →
    ∃ t u v, exec .hwb s = .next t ∧ exec .hld t = .next u ∧ exec .hval u = .next v ∧ v.err = .ok ∧
      v.hdrValidated = true ∧ v.res0 = BitVec.ofNat 32 n ∧ v.res1 = s.cfg.supportedVersion.setWidth 32 ∧
      ∀ p, p < 508 → blockByte v.hdr p = blockByte s.hdr p

/-- R173: the check value of the checksum function the rule writes out (log entry 4: its parameters are from general
knowledge). -/
def Obligations.ChecksumCheckValue : Prop :=
  crc32Cksum .cksum [0x31, 0x32, 0x33, 0x34, 0x35, 0x36, 0x37, 0x38, 0x39] = 0x765E7680#32

/-- R54: which commands begin and end the host's mount: an `HVAL` that sets `hdr_validated` begins it, `HLD` and `HCLR` end
it, and no other command changes it. That an `HVAL` that fails leaves it is the model's reading of R54 (DESIGN CHOICE, log
entry 28). -/
def Obligations.MountFollowsHeaderCommands : Prop :=
  ∀ (i : Instr) (s t : State), exec i s = .next t →
    (i = .hld ∨ i = .hclr → t.mounted = false) ∧ (i = .hval → t.mounted = (s.mounted || t.hdrValidated)) ∧
      (i ≠ .hld → i ≠ .hclr → i ≠ .hval → t.mounted = s.mounted)

/-! ## Registers -/

/-- R43, R285: the bits of `STATUS`. -/
def Obligations.StatusRegisterBits : Prop :=
  ∀ s : State,
    let w := readReg s 4 0x0C
    w.getLsbD 0 = s.busy ∧ w.getLsbD 1 = s.done ∧ w.getLsbD 2 = s.ovr ∧ w.getLsbD 3 = s.hdrValidated ∧
      w.getLsbD 4 = s.view.valid ∧ w.extractLsb' 5 3 = 0#3 ∧ (w.extractLsb' 8 8).toNat = codeOf s.err ∧
      w.extractLsb' 16 16 = 0#16

/-- R40, R43, R46 to R49, R285: what a load of each listed offset reads, and that every other load reads 0. -/
def Obligations.RegisterMapReads : Prop :=
  ∀ s : State, s.Inv →
    (readReg s 4 0x0C).toNat = s.busy.toNat + 2 * s.done.toNat + 4 * s.ovr.toNat + 8 * s.hdrValidated.toNat
        + 16 * s.view.valid.toNat + 256 * codeOf s.err ∧
      readReg s 4 0x00 = s.cmd0 ∧ readReg s 4 0x04 = s.cmd1 ∧ readReg s 4 0x08 = s.cmd2 ∧ readReg s 4 0x10 = s.res0 ∧
      readReg s 4 0x14 = s.res1 ∧ readReg s 4 0x18 = s.errInfo ∧ readReg s 4 0x1C = 0 ∧
      (readReg s 4 0x20).toNat = (if s.view.valid then s.view.base + 256 * s.view.cnt + 2 ^ 31 else 0) ∧
      readReg s 4 0x24 = (if s.view.valid then s.view.start else 0) ∧
      (readReg s 4 0x28).toNat = s.slots.length + 256 * s.cfg.supportedVersion.toNat + 65536 ∧
      (∀ i < s.slots.length, readReg s 4 (0x100 + 8 * i) = (s.slot i).tag ∧
        (readReg s 4 (0x104 + 8 * i)).toNat = (if (s.slot i).valid then 1 else 0) + (if (s.slot i).dirty then 2 else 0)) ∧
      (∀ off, 0x2C ≤ off → off < 0x100 ∨ 0x100 + 8 * s.slots.length ≤ off → readReg s 4 off = 0) ∧
      ∀ width off, width ≠ 4 ∨ off % 4 ≠ 0 → readReg s width off = 0

/-- R67: a register load changes nothing but the model's note of the value read (log entry 10). -/
def Obligations.RegisterLoadHasNoSideEffect : Prop :=
  ∀ (s : State) (width off : Nat) (rest : List Input), s.inputs = .read width off :: rest →
    step s = .next { s with inputs := rest, readData := readReg s width off }

/-! ## Host sequences -/

/-- R252, R54: `Filesystem.new_empty` builds a header that validates, touches neither the device nor the cache, and leaves a
Filesystem instance. -/
def Obligations.NewEmptyBuildsValidHeader : Prop :=
  ∀ (s : State) (rest : List Input), s.seq = .idle → s.busy = false → s.job = none → s.file = none →
    s.cfg.supportedVersion ≠ 0 → s.inputs = .call .fsNewEmpty :: rest →
    ∃ t, step s = .next t ∧ t.hostResult = .done ∧ t.mounted = true ∧ t.job = none ∧ t.hdrValidated = true ∧
      t.err = .ok ∧ t.res0 = 0 ∧ t.res1 = s.cfg.supportedVersion.setWidth 32 ∧ t.medium = s.medium ∧ t.devLog = s.devLog ∧ t.slots = s.slots ∧
      t.view = s.view ∧ t.inputs = rest ∧ blockByte t.hdr 0 = s.cfg.supportedVersion ∧
      ∀ p, 1 ≤ p → p < 508 → blockByte t.hdr p = 0

/-- R224, R301: `File.seek`, from each of its three origins. -/
def Obligations.SeekMovesCursorInBounds : Prop :=
  ∀ (s : State) (f : File) (whence : Whence) (n : Int) (rest : List Input), s.seq = .idle → s.busy = false →
    s.job = none → s.file = some f → s.inputs = .call (.fileSeek whence n) :: rest →
    let cand : Int :=
      (match whence with | .start => 4 | .fromEnd => (f.len : Int) | .current => (f.cursor : Int)) + n
    step s = .next
      (if cand < 4 ∨ (f.len : Int) < cand then { s with inputs := rest, hostResult := .err .seekOutOfBounds }
      else { s with
        inputs := rest
        file := some { f with cursor := cand.toNat }
        hostResult := .num (cand - 4).toNat })
end

