-- ==== Sys2Proof/Laws/Checksum.lean ====
section
/-! SUPPORT. The checksum function R173 writes out changes with every single-bit change of its message (R188, G1). -/

namespace Sys2Proof.Machine

open Sys2Proof

/-- Eight steps of the CRC lose nothing: the polynomial's lowest bit tells which branch a step took. -/
theorem crcShift_injective (n : Nat) {c d : Word} (h : crcShift n c = crcShift n d) : c = d := by
  induction n generalizing c d with
  | zero => exact h
  | succ n ih =>
    have h := ih h
    have hm : c.msb = d.msb := by
      have h0 := congrArg (fun w : Word => w.getLsbD 0) h
      by_cases hc : c.msb = true <;> by_cases hd : d.msb = true <;> simp [hc, hd] at h0 ⊢
    have hs : c <<< (1 : Nat) = d <<< (1 : Nat) := by
      by_cases hd : d.msb = true
      · simpa [hm, hd] using h
      · simpa [hm, hd] using h
    apply BitVec.eq_of_getLsbD_eq
    intro i hi
    by_cases hi31 : i = 31
    · subst hi31
      simpa [BitVec.msb_eq_getLsbD_last] using hm
    · have := congrArg (fun w : Word => w.getLsbD (i + 1)) hs
      simpa only [BitVec.getLsbD_shiftLeft, show i + 1 < 32 by omega, show ¬ i + 1 < 1 by omega, decide_true, decide_false,
        Bool.not_false, Bool.true_and, Nat.add_sub_cancel] using this

/-- A byte of the CRC, from two remainders: nothing is lost. -/
theorem crcStep_injective {c d : Word} (x : Byte) (h : crcStep c x = crcStep d x) : c = d := by
  have := crcShift_injective 8 h
  simpa using this

/-- The CRC of a message tells the remainders before it apart. -/
theorem crcFold_injective (bs : List Byte) {c d : Word} (h : bs.foldl crcStep c = bs.foldl crcStep d) : c = d := by
  induction bs generalizing c d with
  | nil => exact h
  | cons x bs ih => exact crcStep_injective x (ih h)

/-- The function of R173 detects every single-bit change (R188). -/
theorem cksum_detectsFlips : DetectsFlips .cksum := by
  intro before after x b hb h
  simp only [crc32Cksum, List.foldl_append, List.foldl_cons, BitVec.xor_left_inj] at h
  have h := crcShift_injective 8 (crcFold_injective after h)
  have h : (flipBit x b).setWidth 32 <<< (24 : Nat) = x.setWidth 32 <<< (24 : Nat) := by simpa using h
  have := congrArg (fun w : Word => w.getLsbD (24 + b)) h
  simp [flipBit, show 24 + b < 32 by omega, show b < 8 from hb] at this

end Sys2Proof.Machine
end

