-- ==== Sys2Proof/Laws/Memory.lean ====
section
/-! SUPPORT. Laws of blocks, little-endian words and the medium: read after write, and the canonical form kept. -/

namespace Sys2Proof.Machine

open Sys2Proof

/-! ### Blocks -/

@[simp] theorem blockByte_gen (f : Nat → Byte) {j : Nat} (h : j < 512) : blockByte (Block.gen f) j = f j := by
  simp [blockByte, Block.gen, h]

theorem blockByte_gen_out (f : Nat → Byte) {j : Nat} (h : 512 ≤ j) : blockByte (Block.gen f) j = 0 := by
  simp [blockByte, Block.gen, h]

/-- Two blocks with the same 512 bytes are equal. -/
theorem block_ext {a b : Block} (h : ∀ j < 512, blockByte a j = blockByte b j) : a = b := by
  cases a with | mk a => cases b with | mk b =>
  congr 1
  apply Vector.ext
  intro j hj
  have := h j hj
  simpa [blockByte, hj] using this

theorem gen_blockByte (b : Block) : Block.gen (blockByte b) = b := block_ext fun _ hj => blockByte_gen _ hj

theorem blockByte_setByte (b : Block) {j : Nat} (v : Byte) (k : Nat) (h : j < 512) :
    blockByte (blockSetByte b j v) k = if k = j then v else blockByte b k := by
  unfold blockByte blockSetByte
  by_cases hk : k = j
  · subst hk; simp [h]
  · simp [hk, Ne.symm hk]

/-- A word write changes the four bytes at its offset and nothing else (R60). -/
theorem blockByte_setWord (b : Block) {j : Nat} (v : Word) (k : Nat) (h : j + 4 ≤ 512) :
    blockByte (blockSetWord b j v) k = if j ≤ k ∧ k < j + 4 then le32Byte v (k - j) else blockByte b k := by
  unfold blockSetWord
  rw [blockByte_setByte _ _ _ (by omega), blockByte_setByte _ _ _ (by omega), blockByte_setByte _ _ _ (by omega),
    blockByte_setByte _ _ _ (by omega)]
  by_cases h3 : k = j + 3
  · subst h3; simp
  by_cases h2 : k = j + 2
  · subst h2; simp
  by_cases h1 : k = j + 1
  · subst h1; simp
  by_cases h0 : k = j
  · subst h0; simp
  rw [if_neg h3, if_neg h2, if_neg h1, if_neg h0, if_neg (by omega)]

/-- `LE32` of the bytes of `le32(w)` is `w` (R13). -/
theorem le32Read_le32Byte (w : Word) : le32Read (le32Byte w 0) (le32Byte w 1) (le32Byte w 2) (le32Byte w 3) = w := by
  apply BitVec.eq_of_toNat_eq
  have hw := w.isLt
  simp only [le32Read, le32Byte, BitVec.extractLsb'_toNat, BitVec.toNat_ofNat, Nat.shiftRight_eq_div_pow]
  omega

/-- A word read back at the offset it was written to (R60). -/
theorem blockWord_setWord (b : Block) {j : Nat} (v : Word) (h : j + 4 ≤ 512) : blockWord (blockSetWord b j v) j = v := by
  unfold blockWord
  rw [blockByte_setWord _ _ _ h, blockByte_setWord _ _ _ h, blockByte_setWord _ _ _ h, blockByte_setWord _ _ _ h]
  simp [le32Read_le32Byte]

/-- A word read at an offset clear of the word written. -/
theorem blockWord_setWord_of_disjoint (b : Block) {j k : Nat} (v : Word) (h : j + 4 ≤ 512) (hd : k + 4 ≤ j ∨ j + 4 ≤ k) :
    blockWord (blockSetWord b j v) k = blockWord b k := by
  unfold blockWord
  rw [blockByte_setWord _ _ _ h, blockByte_setWord _ _ _ h, blockByte_setWord _ _ _ h, blockByte_setWord _ _ _ h]
  rw [if_neg (by omega), if_neg (by omega), if_neg (by omega), if_neg (by omega)]

/-! ### The medium -/

/-- The canonical form in the library's words. -/
theorem wf_iff (m : Memory) :
    Memory.wf m = true ↔ m.Pairwise (fun c d => c.1 < d.1) ∧ ∀ c ∈ m, c.1 < mediumEnd ∧ c.2 ≠ mediumDefault := by
  induction m with
  | nil => simp [Memory.wf]
  | cons c m ih =>
    obtain ⟨a, v⟩ := c
    cases m with
    | nil => simp [Memory.wf]
    | cons d m =>
      obtain ⟨a', v'⟩ := d
      rw [Memory.wf, Bool.and_eq_true, ih]
      constructor
      · rintro ⟨h, hp, hm⟩
        simp only [Bool.and_eq_true, decide_eq_true_eq] at h
        refine ⟨List.pairwise_cons.2 ⟨?_, hp⟩, ?_⟩
        · intro e he
          rcases List.mem_cons.1 he with rfl | he
          · exact h.2
          · exact lt_trans h.2 ((List.pairwise_cons.1 hp).1 e he)
        · intro e he
          rcases List.mem_cons.1 he with rfl | he
          · exact ⟨h.1.1, h.1.2⟩
          · exact hm e he
      · rintro ⟨hp, hm⟩
        have h0 := hm (a, v) (by simp)
        have h1 := (List.pairwise_cons.1 hp).1 (a', v') (by simp)
        exact ⟨by simp [h0.1, h0.2, h1], (List.pairwise_cons.1 hp).2, fun e he => hm e (List.mem_cons_of_mem _ he)⟩

theorem mem_blockCells {lo : Nat} {b : Block} {c : Host.Cell} :
    c ∈ blockCells lo b ↔ ∃ j < 512, blockByte b j ≠ mediumDefault ∧ c = (lo + j, blockByte b j) := by
  simp only [blockCells, List.mem_filterMap, List.mem_range]
  constructor
  · rintro ⟨j, hj, h⟩
    split at h
    · cases h
    · exact ⟨j, hj, by assumption, by simpa using h.symm⟩
  · rintro ⟨j, hj, hne, rfl⟩
    exact ⟨j, hj, by simp [hne]⟩

theorem blockCells_sorted (lo : Nat) (b : Block) : (blockCells lo b).Pairwise fun c d => c.1 < d.1 := by
  unfold blockCells
  refine List.Pairwise.filterMap _ ?_ (List.pairwise_lt_range (n := 512))
  intro i j hij c hc d hd
  split at hc
  · cases hc
  split at hd
  · cases hd
  cases hc; cases hd
  simpa using hij

/-- A block write keeps the canonical form. -/
theorem wf_writeBlock {m : Memory} (hm : Memory.wf m = true) {blk : Nat} (hb : blk < 2 ^ 32) (b : Block) :
    Memory.wf (Memory.writeBlock m blk b) = true := by
  rw [wf_iff] at hm ⊢
  obtain ⟨hp, hv⟩ := hm
  refine ⟨?_, ?_⟩
  · unfold Memory.writeBlock
    rw [List.append_assoc]
    refine List.pairwise_append.2 ⟨hp.filter _, List.pairwise_append.2 ⟨blockCells_sorted _ _, hp.filter _, ?_⟩, ?_⟩
    · intro c hc d hd
      obtain ⟨j, hj, -, rfl⟩ := mem_blockCells.1 hc
      have := (List.mem_filter.1 hd).2
      simp only [decide_eq_true_eq] at this
      show 512 * blk + j < d.1
      omega
    · intro c hc d hd
      have h1 := (List.mem_filter.1 hc).2
      simp only [decide_eq_true_eq] at h1
      rcases List.mem_append.1 hd with hd | hd
      · obtain ⟨j, hj, -, rfl⟩ := mem_blockCells.1 hd
        show c.1 < 512 * blk + j
        omega
      · have h2 := (List.mem_filter.1 hd).2
        simp only [decide_eq_true_eq] at h2
        omega
  · intro c hc
    unfold Memory.writeBlock at hc
    rcases List.mem_append.1 hc with hc | hc
    · rcases List.mem_append.1 hc with hc | hc
      · exact hv c (List.mem_filter.1 hc).1
      · obtain ⟨j, hj, hne, rfl⟩ := mem_blockCells.1 hc
        exact ⟨show 512 * blk + j < mediumEnd by unfold mediumEnd; omega, hne⟩
    · exact hv c (List.mem_filter.1 hc).1

/-- A write of consecutive blocks keeps the canonical form. -/
theorem wf_writeBlocks {m : Memory} (hm : Memory.wf m = true) (bs : List Block) {blk : Nat} (hb : blk + bs.length ≤ 2 ^ 32) :
    Memory.wf (Memory.writeBlocks m blk bs) = true := by
  induction bs generalizing m blk with
  | nil => exact hm
  | cons b bs ih =>
    simp only [List.length_cons] at hb
    exact ih (wf_writeBlock hm (by omega) b) (by omega)

theorem find_blockCells (lo : Nat) (b : Block) {j : Nat} (hj : j < 512) :
    (blockCells lo b).find? (fun c => c.1 = lo + j) =
      if blockByte b j = mediumDefault then none else some (lo + j, blockByte b j) := by
  by_cases h : blockByte b j = mediumDefault
  · rw [if_pos h, List.find?_eq_none]
    intro c hc
    obtain ⟨k, hk, hne, rfl⟩ := mem_blockCells.1 hc
    simp only [decide_eq_true_eq]
    intro he
    have : k = j := by omega
    exact hne (this ▸ h)
  · rw [if_neg h]
    cases hf : (blockCells lo b).find? (fun c => c.1 = lo + j) with
    | none =>
      rw [List.find?_eq_none] at hf
      exact absurd (by simp) (hf _ (mem_blockCells.2 ⟨j, hj, h, rfl⟩))
    | some c =>
      have h1 := List.find?_some hf
      obtain ⟨k, hk, -, rfl⟩ := mem_blockCells.1 (List.mem_of_find?_eq_some hf)
      simp only [decide_eq_true_eq] at h1
      have : k = j := by omega
      rw [this]

/-- A byte of the block just written. -/
theorem read_writeBlock_same (m : Memory) (blk : Nat) (b : Block) {j : Nat} (hj : j < 512) :
    Memory.read (Memory.writeBlock m blk b) (512 * blk + j) = blockByte b j := by
  unfold Memory.read Memory.writeBlock
  have h1 : (m.filter fun c => c.1 < 512 * blk).find? (fun c => c.1 = 512 * blk + j) = none := by
    rw [List.find?_eq_none]
    intro c hc
    have := (List.mem_filter.1 hc).2
    simp only [decide_eq_true_eq] at this ⊢
    omega
  have h2 : (m.filter fun c => 512 * blk + 512 ≤ c.1).find? (fun c => c.1 = 512 * blk + j) = none := by
    rw [List.find?_eq_none]
    intro c hc
    have := (List.mem_filter.1 hc).2
    simp only [decide_eq_true_eq] at this ⊢
    omega
  rw [List.find?_append, List.find?_append, h1, h2, find_blockCells _ _ hj]
  by_cases h : blockByte b j = mediumDefault <;> simp [h]

theorem find_filter_of_imp {m : Memory} {p q : Host.Cell → Bool} (h : ∀ c, q c = true → p c = true) :
    (m.filter p).find? q = m.find? q := by
  induction m with
  | nil => rfl
  | cons c m ih =>
    by_cases hq : q c = true
    · simp [h c hq, hq]
    · by_cases hp : p c = true <;> simp [hp, hq, ih]

/-- A byte outside the block just written. -/
theorem read_writeBlock_other (m : Memory) (blk : Nat) (b : Block) {a : Nat} (ha : a < 512 * blk ∨ 512 * blk + 512 ≤ a) :
    Memory.read (Memory.writeBlock m blk b) a = Memory.read m a := by
  unfold Memory.read Memory.writeBlock
  have hc : (blockCells (512 * blk) b).find? (fun c => c.1 = a) = none := by
    rw [List.find?_eq_none]
    intro c hc
    obtain ⟨j, hj, -, rfl⟩ := mem_blockCells.1 hc
    simp only [decide_eq_true_eq]
    omega
  rw [List.find?_append, List.find?_append, hc]
  rcases ha with ha | ha
  · have h1 : (m.filter fun c => 512 * blk + 512 ≤ c.1).find? (fun c => c.1 = a) = none := by
      rw [List.find?_eq_none]
      intro c hc
      have := (List.mem_filter.1 hc).2
      simp only [decide_eq_true_eq] at this ⊢
      omega
    rw [h1, find_filter_of_imp (by intro c; simp only [decide_eq_true_eq]; omega)]
    simp
  · have h1 : (m.filter fun c => c.1 < 512 * blk).find? (fun c => c.1 = a) = none := by
      rw [List.find?_eq_none]
      intro c hc
      have := (List.mem_filter.1 hc).2
      simp only [decide_eq_true_eq] at this ⊢
      omega
    rw [h1, find_filter_of_imp (by intro c; simp only [decide_eq_true_eq]; omega)]
    simp

/-- A byte outside the blocks just written. -/
theorem read_writeBlocks_other (m : Memory) (bs : List Block) (blk : Nat) {a : Nat}
    (ha : a < 512 * blk ∨ 512 * (blk + bs.length) ≤ a) :
    Memory.read (Memory.writeBlocks m blk bs) a = Memory.read m a := by
  induction bs generalizing m blk with
  | nil => rfl
  | cons b bs ih =>
    simp only [List.length_cons] at ha
    rw [Memory.writeBlocks, ih _ _ (by omega), read_writeBlock_other _ _ _ (by omega)]

/-- The block just written reads back (R211(a), R211(b)). -/
theorem readBlock_writeBlock_same (m : Memory) (blk : Nat) (b : Block) :
    Memory.readBlock (Memory.writeBlock m blk b) blk = b :=
  block_ext fun j hj => by
    unfold Memory.readBlock
    rw [blockByte_gen _ hj, read_writeBlock_same _ _ _ hj]

/-- Another block reads as before. -/
theorem readBlock_writeBlock_other (m : Memory) {blk k : Nat} (b : Block) (h : k ≠ blk) :
    Memory.readBlock (Memory.writeBlock m blk b) k = Memory.readBlock m k :=
  block_ext fun j hj => by
    unfold Memory.readBlock
    rw [blockByte_gen _ hj, blockByte_gen _ hj, read_writeBlock_other _ _ _ (by omega)]

/-- Block `q` of consecutive blocks just written reads back. -/
theorem readBlock_writeBlocks (m : Memory) (bs : List Block) (blk : Nat) {q : Nat} (hq : q < bs.length) :
    Memory.readBlock (Memory.writeBlocks m blk bs) (blk + q) = bs[q] := by
  induction bs generalizing m blk q with
  | nil => simp at hq
  | cons b bs ih =>
    cases q with
    | zero =>
      refine block_ext fun j hj => ?_
      unfold Memory.readBlock
      rw [blockByte_gen _ hj, Memory.writeBlocks, read_writeBlocks_other _ _ _ (by omega), Nat.add_zero,
        read_writeBlock_same _ _ _ hj]
      rfl
    | succ q =>
      have := ih (Memory.writeBlock m blk b) (blk + 1) (q := q) (by simpa using hq)
      rw [Memory.writeBlocks, show blk + (q + 1) = blk + 1 + q by omega, this]
      rfl

end Sys2Proof.Machine
end

