-- ==== Sys2Proof/Laws/State.lean ====
section
/-! SUPPORT. One lemma per field per named update of the state, each true by rfl: later proofs unfold no record update. -/

namespace Sys2Proof.Machine

open Sys2Proof

/-! ### setSlot -/

@[simp] theorem setSlot_cfg (s : State) (i : Nat) (sl : Slot) : (s.setSlot i sl).cfg = s.cfg := rfl
@[simp] theorem setSlot_slots (s : State) (i : Nat) (sl : Slot) : (s.setSlot i sl).slots = s.slots.set i sl := rfl
@[simp] theorem setSlot_view (s : State) (i : Nat) (sl : Slot) : (s.setSlot i sl).view = s.view := rfl
@[simp] theorem setSlot_hdr (s : State) (i : Nat) (sl : Slot) : (s.setSlot i sl).hdr = s.hdr := rfl
@[simp] theorem setSlot_hdrValidated (s : State) (i : Nat) (sl : Slot) : (s.setSlot i sl).hdrValidated = s.hdrValidated := rfl
@[simp] theorem setSlot_cmd0 (s : State) (i : Nat) (sl : Slot) : (s.setSlot i sl).cmd0 = s.cmd0 := rfl
@[simp] theorem setSlot_cmd1 (s : State) (i : Nat) (sl : Slot) : (s.setSlot i sl).cmd1 = s.cmd1 := rfl
@[simp] theorem setSlot_cmd2 (s : State) (i : Nat) (sl : Slot) : (s.setSlot i sl).cmd2 = s.cmd2 := rfl
@[simp] theorem setSlot_res0 (s : State) (i : Nat) (sl : Slot) : (s.setSlot i sl).res0 = s.res0 := rfl
@[simp] theorem setSlot_res1 (s : State) (i : Nat) (sl : Slot) : (s.setSlot i sl).res1 = s.res1 := rfl
@[simp] theorem setSlot_errInfo (s : State) (i : Nat) (sl : Slot) : (s.setSlot i sl).errInfo = s.errInfo := rfl
@[simp] theorem setSlot_busy (s : State) (i : Nat) (sl : Slot) : (s.setSlot i sl).busy = s.busy := rfl
@[simp] theorem setSlot_done (s : State) (i : Nat) (sl : Slot) : (s.setSlot i sl).done = s.done := rfl
@[simp] theorem setSlot_ovr (s : State) (i : Nat) (sl : Slot) : (s.setSlot i sl).ovr = s.ovr := rfl
@[simp] theorem setSlot_err (s : State) (i : Nat) (sl : Slot) : (s.setSlot i sl).err = s.err := rfl
@[simp] theorem setSlot_seq (s : State) (i : Nat) (sl : Slot) : (s.setSlot i sl).seq = s.seq := rfl
@[simp] theorem setSlot_medium (s : State) (i : Nat) (sl : Slot) : (s.setSlot i sl).medium = s.medium := rfl
@[simp] theorem setSlot_file (s : State) (i : Nat) (sl : Slot) : (s.setSlot i sl).file = s.file := rfl
@[simp] theorem setSlot_mounted (s : State) (i : Nat) (sl : Slot) : (s.setSlot i sl).mounted = s.mounted := rfl
@[simp] theorem setSlot_job (s : State) (i : Nat) (sl : Slot) : (s.setSlot i sl).job = s.job := rfl
@[simp] theorem setSlot_hostResult (s : State) (i : Nat) (sl : Slot) : (s.setSlot i sl).hostResult = s.hostResult := rfl
@[simp] theorem setSlot_readData (s : State) (i : Nat) (sl : Slot) : (s.setSlot i sl).readData = s.readData := rfl
@[simp] theorem setSlot_draws (s : State) (i : Nat) (sl : Slot) : (s.setSlot i sl).draws = s.draws := rfl
@[simp] theorem setSlot_devLog (s : State) (i : Nat) (sl : Slot) : (s.setSlot i sl).devLog = s.devLog := rfl
@[simp] theorem setSlot_inputs (s : State) (i : Nat) (sl : Slot) : (s.setSlot i sl).inputs = s.inputs := rfl

/-! ### finish -/

@[simp] theorem finish_cfg (s : State) (e : Err) (r0 r1 : Word) : (s.finish e r0 r1).cfg = s.cfg := rfl
@[simp] theorem finish_slots (s : State) (e : Err) (r0 r1 : Word) : (s.finish e r0 r1).slots = s.slots := rfl
@[simp] theorem finish_view (s : State) (e : Err) (r0 r1 : Word) : (s.finish e r0 r1).view = s.view := rfl
@[simp] theorem finish_hdr (s : State) (e : Err) (r0 r1 : Word) : (s.finish e r0 r1).hdr = s.hdr := rfl
@[simp] theorem finish_hdrValidated (s : State) (e : Err) (r0 r1 : Word) : (s.finish e r0 r1).hdrValidated = s.hdrValidated := rfl
@[simp] theorem finish_cmd0 (s : State) (e : Err) (r0 r1 : Word) : (s.finish e r0 r1).cmd0 = s.cmd0 := rfl
@[simp] theorem finish_cmd1 (s : State) (e : Err) (r0 r1 : Word) : (s.finish e r0 r1).cmd1 = s.cmd1 := rfl
@[simp] theorem finish_cmd2 (s : State) (e : Err) (r0 r1 : Word) : (s.finish e r0 r1).cmd2 = s.cmd2 := rfl
@[simp] theorem finish_res0 (s : State) (e : Err) (r0 r1 : Word) : (s.finish e r0 r1).res0 = r0 := rfl
@[simp] theorem finish_res1 (s : State) (e : Err) (r0 r1 : Word) : (s.finish e r0 r1).res1 = r1 := rfl
@[simp] theorem finish_errInfo (s : State) (e : Err) (r0 r1 : Word) : (s.finish e r0 r1).errInfo = s.errInfo := rfl
@[simp] theorem finish_busy (s : State) (e : Err) (r0 r1 : Word) : (s.finish e r0 r1).busy = false := rfl
@[simp] theorem finish_done (s : State) (e : Err) (r0 r1 : Word) : (s.finish e r0 r1).done = true := rfl
@[simp] theorem finish_ovr (s : State) (e : Err) (r0 r1 : Word) : (s.finish e r0 r1).ovr = s.ovr := rfl
@[simp] theorem finish_err (s : State) (e : Err) (r0 r1 : Word) : (s.finish e r0 r1).err = e := rfl
@[simp] theorem finish_seq (s : State) (e : Err) (r0 r1 : Word) : (s.finish e r0 r1).seq = .idle := rfl
@[simp] theorem finish_medium (s : State) (e : Err) (r0 r1 : Word) : (s.finish e r0 r1).medium = s.medium := rfl
@[simp] theorem finish_file (s : State) (e : Err) (r0 r1 : Word) : (s.finish e r0 r1).file = s.file := rfl
@[simp] theorem finish_mounted (s : State) (e : Err) (r0 r1 : Word) : (s.finish e r0 r1).mounted = s.mounted := rfl
@[simp] theorem finish_job (s : State) (e : Err) (r0 r1 : Word) : (s.finish e r0 r1).job = s.job := rfl
@[simp] theorem finish_hostResult (s : State) (e : Err) (r0 r1 : Word) : (s.finish e r0 r1).hostResult = s.hostResult := rfl
@[simp] theorem finish_readData (s : State) (e : Err) (r0 r1 : Word) : (s.finish e r0 r1).readData = s.readData := rfl
@[simp] theorem finish_draws (s : State) (e : Err) (r0 r1 : Word) : (s.finish e r0 r1).draws = s.draws := rfl
@[simp] theorem finish_devLog (s : State) (e : Err) (r0 r1 : Word) : (s.finish e r0 r1).devLog = s.devLog := rfl
@[simp] theorem finish_inputs (s : State) (e : Err) (r0 r1 : Word) : (s.finish e r0 r1).inputs = s.inputs := rfl

/-! ### raiseIo -/

@[simp] theorem raiseIo_cfg (s : State) (c : Word) : (s.raiseIo c).cfg = s.cfg := rfl
@[simp] theorem raiseIo_slots (s : State) (c : Word) : (s.raiseIo c).slots = s.slots := rfl
@[simp] theorem raiseIo_view (s : State) (c : Word) : (s.raiseIo c).view = s.view := rfl
@[simp] theorem raiseIo_hdr (s : State) (c : Word) : (s.raiseIo c).hdr = s.hdr := rfl
@[simp] theorem raiseIo_hdrValidated (s : State) (c : Word) : (s.raiseIo c).hdrValidated = s.hdrValidated := rfl
@[simp] theorem raiseIo_cmd0 (s : State) (c : Word) : (s.raiseIo c).cmd0 = s.cmd0 := rfl
@[simp] theorem raiseIo_cmd1 (s : State) (c : Word) : (s.raiseIo c).cmd1 = s.cmd1 := rfl
@[simp] theorem raiseIo_cmd2 (s : State) (c : Word) : (s.raiseIo c).cmd2 = s.cmd2 := rfl
@[simp] theorem raiseIo_res0 (s : State) (c : Word) : (s.raiseIo c).res0 = 0 := rfl
@[simp] theorem raiseIo_res1 (s : State) (c : Word) : (s.raiseIo c).res1 = 0 := rfl
@[simp] theorem raiseIo_errInfo (s : State) (c : Word) : (s.raiseIo c).errInfo = c := rfl
@[simp] theorem raiseIo_busy (s : State) (c : Word) : (s.raiseIo c).busy = false := rfl
@[simp] theorem raiseIo_done (s : State) (c : Word) : (s.raiseIo c).done = true := rfl
@[simp] theorem raiseIo_ovr (s : State) (c : Word) : (s.raiseIo c).ovr = s.ovr := rfl
@[simp] theorem raiseIo_err (s : State) (c : Word) : (s.raiseIo c).err = .io := rfl
@[simp] theorem raiseIo_seq (s : State) (c : Word) : (s.raiseIo c).seq = .idle := rfl
@[simp] theorem raiseIo_medium (s : State) (c : Word) : (s.raiseIo c).medium = s.medium := rfl
@[simp] theorem raiseIo_file (s : State) (c : Word) : (s.raiseIo c).file = s.file := rfl
@[simp] theorem raiseIo_mounted (s : State) (c : Word) : (s.raiseIo c).mounted = s.mounted := rfl
@[simp] theorem raiseIo_job (s : State) (c : Word) : (s.raiseIo c).job = s.job := rfl
@[simp] theorem raiseIo_hostResult (s : State) (c : Word) : (s.raiseIo c).hostResult = s.hostResult := rfl
@[simp] theorem raiseIo_readData (s : State) (c : Word) : (s.raiseIo c).readData = s.readData := rfl
@[simp] theorem raiseIo_draws (s : State) (c : Word) : (s.raiseIo c).draws = s.draws := rfl
@[simp] theorem raiseIo_devLog (s : State) (c : Word) : (s.raiseIo c).devLog = s.devLog := rfl
@[simp] theorem raiseIo_inputs (s : State) (c : Word) : (s.raiseIo c).inputs = s.inputs := rfl

/-! ### launch -/

@[simp] theorem launch_cfg (s : State) (v : Word) : (s.launch v).cfg = s.cfg := rfl
@[simp] theorem launch_slots (s : State) (v : Word) : (s.launch v).slots = s.slots := rfl
@[simp] theorem launch_view (s : State) (v : Word) : (s.launch v).view = s.view := rfl
@[simp] theorem launch_hdr (s : State) (v : Word) : (s.launch v).hdr = s.hdr := rfl
@[simp] theorem launch_hdrValidated (s : State) (v : Word) : (s.launch v).hdrValidated = s.hdrValidated := rfl
@[simp] theorem launch_cmd0 (s : State) (v : Word) : (s.launch v).cmd0 = v := rfl
@[simp] theorem launch_cmd1 (s : State) (v : Word) : (s.launch v).cmd1 = s.cmd1 := rfl
@[simp] theorem launch_cmd2 (s : State) (v : Word) : (s.launch v).cmd2 = s.cmd2 := rfl
@[simp] theorem launch_res0 (s : State) (v : Word) : (s.launch v).res0 = s.res0 := rfl
@[simp] theorem launch_res1 (s : State) (v : Word) : (s.launch v).res1 = s.res1 := rfl
@[simp] theorem launch_errInfo (s : State) (v : Word) : (s.launch v).errInfo = s.errInfo := rfl
@[simp] theorem launch_busy (s : State) (v : Word) : (s.launch v).busy = true := rfl
@[simp] theorem launch_done (s : State) (v : Word) : (s.launch v).done = false := rfl
@[simp] theorem launch_ovr (s : State) (v : Word) : (s.launch v).ovr = false := rfl
@[simp] theorem launch_err (s : State) (v : Word) : (s.launch v).err = .ok := rfl
@[simp] theorem launch_seq (s : State) (v : Word) : (s.launch v).seq = .run := rfl
@[simp] theorem launch_medium (s : State) (v : Word) : (s.launch v).medium = s.medium := rfl
@[simp] theorem launch_file (s : State) (v : Word) : (s.launch v).file = s.file := rfl
@[simp] theorem launch_mounted (s : State) (v : Word) : (s.launch v).mounted = s.mounted := rfl
@[simp] theorem launch_job (s : State) (v : Word) : (s.launch v).job = s.job := rfl
@[simp] theorem launch_hostResult (s : State) (v : Word) : (s.launch v).hostResult = s.hostResult := rfl
@[simp] theorem launch_readData (s : State) (v : Word) : (s.launch v).readData = s.readData := rfl
@[simp] theorem launch_draws (s : State) (v : Word) : (s.launch v).draws = s.draws := rfl
@[simp] theorem launch_devLog (s : State) (v : Word) : (s.launch v).devLog = s.devLog := rfl
@[simp] theorem launch_inputs (s : State) (v : Word) : (s.launch v).inputs = s.inputs := rfl

/-! ### logged -/

@[simp] theorem logged_cfg (s : State) (r : Request) (rep : Reply) : (s.logged r rep).cfg = s.cfg := rfl
@[simp] theorem logged_slots (s : State) (r : Request) (rep : Reply) : (s.logged r rep).slots = s.slots := rfl
@[simp] theorem logged_view (s : State) (r : Request) (rep : Reply) : (s.logged r rep).view = s.view := rfl
@[simp] theorem logged_hdr (s : State) (r : Request) (rep : Reply) : (s.logged r rep).hdr = s.hdr := rfl
@[simp] theorem logged_hdrValidated (s : State) (r : Request) (rep : Reply) : (s.logged r rep).hdrValidated = s.hdrValidated := rfl
@[simp] theorem logged_cmd0 (s : State) (r : Request) (rep : Reply) : (s.logged r rep).cmd0 = s.cmd0 := rfl
@[simp] theorem logged_cmd1 (s : State) (r : Request) (rep : Reply) : (s.logged r rep).cmd1 = s.cmd1 := rfl
@[simp] theorem logged_cmd2 (s : State) (r : Request) (rep : Reply) : (s.logged r rep).cmd2 = s.cmd2 := rfl
@[simp] theorem logged_res0 (s : State) (r : Request) (rep : Reply) : (s.logged r rep).res0 = s.res0 := rfl
@[simp] theorem logged_res1 (s : State) (r : Request) (rep : Reply) : (s.logged r rep).res1 = s.res1 := rfl
@[simp] theorem logged_errInfo (s : State) (r : Request) (rep : Reply) : (s.logged r rep).errInfo = s.errInfo := rfl
@[simp] theorem logged_busy (s : State) (r : Request) (rep : Reply) : (s.logged r rep).busy = s.busy := rfl
@[simp] theorem logged_done (s : State) (r : Request) (rep : Reply) : (s.logged r rep).done = s.done := rfl
@[simp] theorem logged_ovr (s : State) (r : Request) (rep : Reply) : (s.logged r rep).ovr = s.ovr := rfl
@[simp] theorem logged_err (s : State) (r : Request) (rep : Reply) : (s.logged r rep).err = s.err := rfl
@[simp] theorem logged_seq (s : State) (r : Request) (rep : Reply) : (s.logged r rep).seq = s.seq := rfl
@[simp] theorem logged_medium (s : State) (r : Request) (rep : Reply) : (s.logged r rep).medium = s.medium := rfl
@[simp] theorem logged_file (s : State) (r : Request) (rep : Reply) : (s.logged r rep).file = s.file := rfl
@[simp] theorem logged_mounted (s : State) (r : Request) (rep : Reply) : (s.logged r rep).mounted = s.mounted := rfl
@[simp] theorem logged_job (s : State) (r : Request) (rep : Reply) : (s.logged r rep).job = s.job := rfl
@[simp] theorem logged_hostResult (s : State) (r : Request) (rep : Reply) : (s.logged r rep).hostResult = s.hostResult := rfl
@[simp] theorem logged_readData (s : State) (r : Request) (rep : Reply) : (s.logged r rep).readData = s.readData := rfl
@[simp] theorem logged_draws (s : State) (r : Request) (rep : Reply) : (s.logged r rep).draws = s.draws := rfl
@[simp] theorem logged_devLog (s : State) (r : Request) (rep : Reply) : (s.logged r rep).devLog = s.devLog ++ [⟨r.kind, r.blk, r.cnt, if r.kind = .wr then s.source r else [], rep⟩] := rfl
@[simp] theorem logged_inputs (s : State) (r : Request) (rep : Reply) : (s.logged r rep).inputs = s.inputs := rfl

/-! ### setFile -/

@[simp] theorem setFile_cfg (s : State) (f : Option File) : (s.setFile f).cfg = s.cfg := rfl
@[simp] theorem setFile_slots (s : State) (f : Option File) : (s.setFile f).slots = s.slots := rfl
@[simp] theorem setFile_view (s : State) (f : Option File) : (s.setFile f).view = s.view := rfl
@[simp] theorem setFile_hdr (s : State) (f : Option File) : (s.setFile f).hdr = s.hdr := rfl
@[simp] theorem setFile_hdrValidated (s : State) (f : Option File) : (s.setFile f).hdrValidated = s.hdrValidated := rfl
@[simp] theorem setFile_cmd0 (s : State) (f : Option File) : (s.setFile f).cmd0 = s.cmd0 := rfl
@[simp] theorem setFile_cmd1 (s : State) (f : Option File) : (s.setFile f).cmd1 = s.cmd1 := rfl
@[simp] theorem setFile_cmd2 (s : State) (f : Option File) : (s.setFile f).cmd2 = s.cmd2 := rfl
@[simp] theorem setFile_res0 (s : State) (f : Option File) : (s.setFile f).res0 = s.res0 := rfl
@[simp] theorem setFile_res1 (s : State) (f : Option File) : (s.setFile f).res1 = s.res1 := rfl
@[simp] theorem setFile_errInfo (s : State) (f : Option File) : (s.setFile f).errInfo = s.errInfo := rfl
@[simp] theorem setFile_busy (s : State) (f : Option File) : (s.setFile f).busy = s.busy := rfl
@[simp] theorem setFile_done (s : State) (f : Option File) : (s.setFile f).done = s.done := rfl
@[simp] theorem setFile_ovr (s : State) (f : Option File) : (s.setFile f).ovr = s.ovr := rfl
@[simp] theorem setFile_err (s : State) (f : Option File) : (s.setFile f).err = s.err := rfl
@[simp] theorem setFile_seq (s : State) (f : Option File) : (s.setFile f).seq = s.seq := rfl
@[simp] theorem setFile_medium (s : State) (f : Option File) : (s.setFile f).medium = s.medium := rfl
@[simp] theorem setFile_file (s : State) (f : Option File) : (s.setFile f).file = f := rfl
@[simp] theorem setFile_mounted (s : State) (f : Option File) : (s.setFile f).mounted = s.mounted := rfl
@[simp] theorem setFile_job (s : State) (f : Option File) : (s.setFile f).job = s.job := rfl
@[simp] theorem setFile_hostResult (s : State) (f : Option File) : (s.setFile f).hostResult = s.hostResult := rfl
@[simp] theorem setFile_readData (s : State) (f : Option File) : (s.setFile f).readData = s.readData := rfl
@[simp] theorem setFile_draws (s : State) (f : Option File) : (s.setFile f).draws = s.draws := rfl
@[simp] theorem setFile_devLog (s : State) (f : Option File) : (s.setFile f).devLog = s.devLog := rfl
@[simp] theorem setFile_inputs (s : State) (f : Option File) : (s.setFile f).inputs = s.inputs := rfl

/-! ### dispose -/

@[simp] theorem dispose_cfg (s : State) : (s.dispose).cfg = s.cfg := rfl
@[simp] theorem dispose_slots (s : State) : (s.dispose).slots = s.slots := rfl
@[simp] theorem dispose_view (s : State) : (s.dispose).view = s.view := rfl
@[simp] theorem dispose_hdr (s : State) : (s.dispose).hdr = s.hdr := rfl
@[simp] theorem dispose_hdrValidated (s : State) : (s.dispose).hdrValidated = s.hdrValidated := rfl
@[simp] theorem dispose_cmd0 (s : State) : (s.dispose).cmd0 = s.cmd0 := rfl
@[simp] theorem dispose_cmd1 (s : State) : (s.dispose).cmd1 = s.cmd1 := rfl
@[simp] theorem dispose_cmd2 (s : State) : (s.dispose).cmd2 = s.cmd2 := rfl
@[simp] theorem dispose_res0 (s : State) : (s.dispose).res0 = s.res0 := rfl
@[simp] theorem dispose_res1 (s : State) : (s.dispose).res1 = s.res1 := rfl
@[simp] theorem dispose_errInfo (s : State) : (s.dispose).errInfo = s.errInfo := rfl
@[simp] theorem dispose_busy (s : State) : (s.dispose).busy = s.busy := rfl
@[simp] theorem dispose_done (s : State) : (s.dispose).done = s.done := rfl
@[simp] theorem dispose_ovr (s : State) : (s.dispose).ovr = s.ovr := rfl
@[simp] theorem dispose_err (s : State) : (s.dispose).err = s.err := rfl
@[simp] theorem dispose_seq (s : State) : (s.dispose).seq = s.seq := rfl
@[simp] theorem dispose_medium (s : State) : (s.dispose).medium = s.medium := rfl
@[simp] theorem dispose_file (s : State) : (s.dispose).file = s.file := rfl
@[simp] theorem dispose_mounted (s : State) : (s.dispose).mounted = false := rfl
@[simp] theorem dispose_job (s : State) : (s.dispose).job = s.job := rfl
@[simp] theorem dispose_hostResult (s : State) : (s.dispose).hostResult = s.hostResult := rfl
@[simp] theorem dispose_readData (s : State) : (s.dispose).readData = s.readData := rfl
@[simp] theorem dispose_draws (s : State) : (s.dispose).draws = s.draws := rfl
@[simp] theorem dispose_devLog (s : State) : (s.dispose).devLog = s.devLog := rfl
@[simp] theorem dispose_inputs (s : State) : (s.dispose).inputs = s.inputs := rfl

/-! ### hostDone -/

@[simp] theorem hostDone_cfg (s : State) (r : HostResult) : (s.hostDone r).cfg = s.cfg := rfl
@[simp] theorem hostDone_slots (s : State) (r : HostResult) : (s.hostDone r).slots = s.slots := rfl
@[simp] theorem hostDone_view (s : State) (r : HostResult) : (s.hostDone r).view = s.view := rfl
@[simp] theorem hostDone_hdr (s : State) (r : HostResult) : (s.hostDone r).hdr = s.hdr := rfl
@[simp] theorem hostDone_hdrValidated (s : State) (r : HostResult) : (s.hostDone r).hdrValidated = s.hdrValidated := rfl
@[simp] theorem hostDone_cmd0 (s : State) (r : HostResult) : (s.hostDone r).cmd0 = s.cmd0 := rfl
@[simp] theorem hostDone_cmd1 (s : State) (r : HostResult) : (s.hostDone r).cmd1 = s.cmd1 := rfl
@[simp] theorem hostDone_cmd2 (s : State) (r : HostResult) : (s.hostDone r).cmd2 = s.cmd2 := rfl
@[simp] theorem hostDone_res0 (s : State) (r : HostResult) : (s.hostDone r).res0 = s.res0 := rfl
@[simp] theorem hostDone_res1 (s : State) (r : HostResult) : (s.hostDone r).res1 = s.res1 := rfl
@[simp] theorem hostDone_errInfo (s : State) (r : HostResult) : (s.hostDone r).errInfo = s.errInfo := rfl
@[simp] theorem hostDone_busy (s : State) (r : HostResult) : (s.hostDone r).busy = s.busy := rfl
@[simp] theorem hostDone_done (s : State) (r : HostResult) : (s.hostDone r).done = s.done := rfl
@[simp] theorem hostDone_ovr (s : State) (r : HostResult) : (s.hostDone r).ovr = s.ovr := rfl
@[simp] theorem hostDone_err (s : State) (r : HostResult) : (s.hostDone r).err = s.err := rfl
@[simp] theorem hostDone_seq (s : State) (r : HostResult) : (s.hostDone r).seq = s.seq := rfl
@[simp] theorem hostDone_medium (s : State) (r : HostResult) : (s.hostDone r).medium = s.medium := rfl
@[simp] theorem hostDone_file (s : State) (r : HostResult) : (s.hostDone r).file = s.file := rfl
@[simp] theorem hostDone_mounted (s : State) (r : HostResult) : (s.hostDone r).mounted = s.mounted := rfl
@[simp] theorem hostDone_job (s : State) (r : HostResult) : (s.hostDone r).job = none := rfl
@[simp] theorem hostDone_hostResult (s : State) (r : HostResult) : (s.hostDone r).hostResult = r := rfl
@[simp] theorem hostDone_readData (s : State) (r : HostResult) : (s.hostDone r).readData = s.readData := rfl
@[simp] theorem hostDone_draws (s : State) (r : HostResult) : (s.hostDone r).draws = s.draws := rfl
@[simp] theorem hostDone_devLog (s : State) (r : HostResult) : (s.hostDone r).devLog = s.devLog := rfl
@[simp] theorem hostDone_inputs (s : State) (r : HostResult) : (s.hostDone r).inputs = s.inputs := rfl

/-! ### hostWaits -/

@[simp] theorem hostWaits_cfg (s : State) (j : Job) : (s.hostWaits j).cfg = s.cfg := rfl
@[simp] theorem hostWaits_slots (s : State) (j : Job) : (s.hostWaits j).slots = s.slots := rfl
@[simp] theorem hostWaits_view (s : State) (j : Job) : (s.hostWaits j).view = s.view := rfl
@[simp] theorem hostWaits_hdr (s : State) (j : Job) : (s.hostWaits j).hdr = s.hdr := rfl
@[simp] theorem hostWaits_hdrValidated (s : State) (j : Job) : (s.hostWaits j).hdrValidated = s.hdrValidated := rfl
@[simp] theorem hostWaits_cmd0 (s : State) (j : Job) : (s.hostWaits j).cmd0 = s.cmd0 := rfl
@[simp] theorem hostWaits_cmd1 (s : State) (j : Job) : (s.hostWaits j).cmd1 = s.cmd1 := rfl
@[simp] theorem hostWaits_cmd2 (s : State) (j : Job) : (s.hostWaits j).cmd2 = s.cmd2 := rfl
@[simp] theorem hostWaits_res0 (s : State) (j : Job) : (s.hostWaits j).res0 = s.res0 := rfl
@[simp] theorem hostWaits_res1 (s : State) (j : Job) : (s.hostWaits j).res1 = s.res1 := rfl
@[simp] theorem hostWaits_errInfo (s : State) (j : Job) : (s.hostWaits j).errInfo = s.errInfo := rfl
@[simp] theorem hostWaits_busy (s : State) (j : Job) : (s.hostWaits j).busy = s.busy := rfl
@[simp] theorem hostWaits_done (s : State) (j : Job) : (s.hostWaits j).done = s.done := rfl
@[simp] theorem hostWaits_ovr (s : State) (j : Job) : (s.hostWaits j).ovr = s.ovr := rfl
@[simp] theorem hostWaits_err (s : State) (j : Job) : (s.hostWaits j).err = s.err := rfl
@[simp] theorem hostWaits_seq (s : State) (j : Job) : (s.hostWaits j).seq = s.seq := rfl
@[simp] theorem hostWaits_medium (s : State) (j : Job) : (s.hostWaits j).medium = s.medium := rfl
@[simp] theorem hostWaits_file (s : State) (j : Job) : (s.hostWaits j).file = s.file := rfl
@[simp] theorem hostWaits_mounted (s : State) (j : Job) : (s.hostWaits j).mounted = s.mounted := rfl
@[simp] theorem hostWaits_job (s : State) (j : Job) : (s.hostWaits j).job = some j := rfl
@[simp] theorem hostWaits_hostResult (s : State) (j : Job) : (s.hostWaits j).hostResult = .pending := rfl
@[simp] theorem hostWaits_readData (s : State) (j : Job) : (s.hostWaits j).readData = s.readData := rfl
@[simp] theorem hostWaits_draws (s : State) (j : Job) : (s.hostWaits j).draws = s.draws := rfl
@[simp] theorem hostWaits_devLog (s : State) (j : Job) : (s.hostWaits j).devLog = s.devLog := rfl
@[simp] theorem hostWaits_inputs (s : State) (j : Job) : (s.hostWaits j).inputs = s.inputs := rfl

/-- The medium of the reset state is in its canonical form. -/
theorem reset_medium_wf : Memory.wf State.reset.medium = true := rfl

end Sys2Proof.Machine
end

