-- ==== Sys2Proof/Laws/Ops.lean ====
section
/-! SUPPORT. For each shared operation one lemma that says what it can do: slots, searches, the device transaction, the wait. -/

namespace Sys2Proof.Machine

open Sys2Proof

/-! ### Slots -/

theorem slot_setSlot (s : State) (i j : Nat) (sl : Slot) :
    (s.setSlot i sl).slot j = if j = i ∧ i < s.slots.length then sl else s.slot j := by
  unfold State.slot State.setSlot
  simp only [List.getElem?_set]
  by_cases h : i = j
  · subst h
    by_cases hi : i < s.slots.length
    · simp [hi]
    · simp [hi]
  · rw [if_neg h, if_neg (by intro hc; exact h hc.1.symm)]

@[simp] theorem setSlot_length (s : State) (i : Nat) (sl : Slot) : (s.setSlot i sl).slots.length = s.slots.length := by
  simp

/-- A slot number past the pool names the Empty default slot (log entry 8). -/
theorem slot_out (s : State) {i : Nat} (h : s.slots.length ≤ i) : s.slot i = default := by
  simp [State.slot, List.getElem?_eq_none h]

theorem slot_lt_of_valid (s : State) {i : Nat} (h : (s.slot i).valid = true) : i < s.slots.length := by
  by_contra hc
  rw [slot_out s (not_lt.1 hc)] at h
  exact absurd h (by decide)

theorem slot_congr {s t : State} (h : t.slots = s.slots) (i : Nat) : t.slot i = s.slot i := by
  unfold State.slot; rw [h]

/-! ### Searches -/

/-- What counting up answers: the first number from `n` on where `p` fails, unless the fuel runs out. -/
theorem countUp_spec (p : Nat → Bool) (fuel n : Nat) :
    n ≤ countUp p fuel n ∧ countUp p fuel n ≤ n + fuel ∧ (∀ k, n ≤ k → k < countUp p fuel n → p k = true) ∧
      (countUp p fuel n < n + fuel → p (countUp p fuel n) = false) := by
  induction fuel generalizing n with
  | zero => simp [countUp]; omega
  | succ fuel ih =>
    by_cases h : p n = true
    · have := ih (n + 1)
      simp only [countUp, h, if_true]
      refine ⟨by omega, by omega, ?_, fun hlt => this.2.2.2 (by omega)⟩
      intro k hk hk'
      by_cases hkn : k = n
      · exact hkn ▸ h
      · exact this.2.2.1 k (by omega) hk'
    · simp only [countUp, h]
      simp only [Bool.not_eq_true] at h
      exact ⟨le_refl _, by simp, fun k hk hk' => by simp at hk'; omega, fun _ => h⟩

/-- What the search finds: the least number below `n` with `p` (R125). -/
theorem lowest_some {n : Nat} {p : Nat → Bool} {i : Nat} :
    lowest n p = some i ↔ i < n ∧ p i = true ∧ ∀ k < i, p k = false := by
  unfold lowest
  rw [List.find?_range_eq_some]
  simp only [List.mem_range, Bool.not_eq_true']
  tauto

theorem lowest_none {n : Nat} {p : Nat → Bool} : lowest n p = none ↔ ∀ k < n, p k = false := by
  unfold lowest
  simp

/-! ### Device transactions -/

theorem fillSlots_length (s : State) (i : Nat) (bs : List Block) : (s.fillSlots i bs).slots.length = s.slots.length := by
  induction bs generalizing s i with
  | nil => rfl
  | cons b bs ih => rw [State.fillSlots, ih]; simp [State.setSlotData]

/-- Putting data into slots leaves the tag array alone (R21). -/
theorem fillSlots_tags (s : State) (i : Nat) (bs : List Block) (j : Nat) :
    ((s.fillSlots i bs).slot j).valid = (s.slot j).valid ∧ ((s.fillSlots i bs).slot j).tag = (s.slot j).tag ∧
      ((s.fillSlots i bs).slot j).dirty = (s.slot j).dirty := by
  induction bs generalizing s i with
  | nil => exact ⟨rfl, rfl, rfl⟩
  | cons b bs ih =>
    have h := ih (s.setSlotData i b) (i + 1)
    rw [State.fillSlots]
    refine ⟨h.1.trans ?_, h.2.1.trans ?_, h.2.2.trans ?_⟩ <;>
      · unfold State.setSlotData
        rw [slot_setSlot]
        split <;> simp_all

/-- Putting data into slots changes no slot outside the range. -/
theorem fillSlots_other (s : State) (i : Nat) (bs : List Block) {j : Nat} (h : j < i ∨ i + bs.length ≤ j) :
    (s.fillSlots i bs).slot j = s.slot j := by
  induction bs generalizing s i with
  | nil => rfl
  | cons b bs ih =>
    simp only [List.length_cons] at h
    rw [State.fillSlots, ih _ _ (by omega)]
    unfold State.setSlotData
    rw [slot_setSlot, if_neg (by omega)]

/-- What a store of block data into one slot leaves. -/
theorem fillSlots_one (s : State) (i : Nat) (b : Block) : s.fillSlots i [b] = s.setSlotData i b := rfl

/-- The fields a device transaction never touches. -/
structure SameButBuffers (s t : State) : Prop where
  cfg : t.cfg = s.cfg
  count : t.slots.length = s.slots.length
  view : t.view = s.view
  hdrValidated : t.hdrValidated = s.hdrValidated
  cmd0 : t.cmd0 = s.cmd0
  cmd1 : t.cmd1 = s.cmd1
  cmd2 : t.cmd2 = s.cmd2
  res0 : t.res0 = s.res0
  res1 : t.res1 = s.res1
  errInfo : t.errInfo = s.errInfo
  busy : t.busy = s.busy
  done : t.done = s.done
  ovr : t.ovr = s.ovr
  err : t.err = s.err
  seq : t.seq = s.seq
  file : t.file = s.file
  mounted : t.mounted = s.mounted
  job : t.job = s.job
  hostResult : t.hostResult = s.hostResult
  readData : t.readData = s.readData
  tags : ∀ j, (t.slot j).valid = (s.slot j).valid ∧ (t.slot j).tag = (s.slot j).tag ∧ (t.slot j).dirty = (s.slot j).dirty

theorem SameButBuffers.refl (s : State) : SameButBuffers s s := by
  constructor <;> simp

theorem SameButBuffers.trans {s t u : State} (h : SameButBuffers s t) (k : SameButBuffers t u) : SameButBuffers s u := by
  constructor
  case tags =>
    intro j
    exact ⟨(k.tags j).1.trans (h.tags j).1, (k.tags j).2.1.trans (h.tags j).2.1, (k.tags j).2.2.trans (h.tags j).2.2⟩
  all_goals first
    | exact k.cfg.trans h.cfg
    | exact k.count.trans h.count
    | exact k.view.trans h.view
    | exact k.hdrValidated.trans h.hdrValidated
    | exact k.cmd0.trans h.cmd0
    | exact k.cmd1.trans h.cmd1
    | exact k.cmd2.trans h.cmd2
    | exact k.res0.trans h.res0
    | exact k.res1.trans h.res1
    | exact k.errInfo.trans h.errInfo
    | exact k.busy.trans h.busy
    | exact k.done.trans h.done
    | exact k.ovr.trans h.ovr
    | exact k.err.trans h.err
    | exact k.seq.trans h.seq
    | exact k.file.trans h.file
    | exact k.mounted.trans h.mounted
    | exact k.job.trans h.job
    | exact k.hostResult.trans h.hostResult
    | exact k.readData.trans h.readData

theorem logged_same (s : State) (r : Request) (rep : Reply) : SameButBuffers s (s.logged r rep) := by
  constructor <;> simp [State.slot]

theorem fillSlots_fields (s : State) (i : Nat) (bs : List Block) :
    s.fillSlots i bs = { s with slots := (s.fillSlots i bs).slots } := by
  induction bs generalizing s i with
  | nil => rfl
  | cons b bs ih => rw [State.fillSlots, ih]; rfl

theorem deliver_same (s : State) (r : Request) (bs : List Block) : SameButBuffers s (s.deliver r bs) := by
  unfold State.deliver
  split
  · rename_i i _
    constructor
    case count => exact fillSlots_length s i bs
    case tags => exact fillSlots_tags s i bs
    all_goals rw [fillSlots_fields]
  · constructor <;> simp [State.slot]

theorem transfer_same (s : State) (r : Request) : SameButBuffers s (s.transfer r) := by
  unfold State.transfer
  split
  · exact deliver_same _ _ _
  · constructor <;> simp [State.slot]

theorem spoilBuffer_same (s : State) (r : Request) : SameButBuffers s (s.spoilBuffer r) := by
  unfold State.spoilBuffer
  split
  · refine (deliver_same s r (s.freeBlocks r.cnt)).trans ?_
    constructor <;> simp [State.slot]
  · exact .refl s

theorem spoilMedium_same (s : State) (r : Request) : SameButBuffers s (s.spoilMedium r) := by
  unfold State.spoilMedium
  split
  · exact .refl s
  · constructor <;> simp [State.slot]

/-- Whatever the device answers, only buffers, the medium, the free value counter, the log and the inputs change, and the
tag array does not (R21, R206, R207). -/
theorem answer_same (s : State) (r : Request) (a : DevAnswer) : SameButBuffers s (s.answer r a).2 := by
  unfold State.answer
  split
  · exact (logged_same _ _ _).trans (transfer_same _ _)
  · exact ((logged_same _ _ _).trans (spoilBuffer_same _ _)).trans (spoilMedium_same _ _)
  · split
    · exact (logged_same _ _ _).trans (transfer_same _ _)
    · exact (logged_same _ _ _).trans (spoilBuffer_same _ _)

theorem withdraw_same (s : State) (r : Request) : SameButBuffers s (s.withdraw r) :=
  ((logged_same _ _ _).trans (spoilBuffer_same _ _)).trans (spoilMedium_same _ _)

/-- How a wait can end (R15): the next input is an answer or a cancel, it is taken, and the answer or the withdrawal is
performed. -/
theorem reply_cases {s t : State} {r : Request} {rep : Reply} (h : s.reply r = some (rep, t)) :
    ∃ x rest, s.inputs = x :: rest ∧
      ((∃ a, (rep, t) = State.answer { s with inputs := rest } r a) ∨
        (rep = .cancelled ∧ t = State.withdraw { s with inputs := rest } r)) := by
  unfold State.reply at h
  split at h
  · rename_i a rest hin
    exact ⟨_, _, hin, .inl ⟨a, (Option.some.inj h).symm⟩⟩
  · rename_i w o v rest hin
    split at h
    · have := Option.some.inj h
      exact ⟨_, _, hin, .inr ⟨by rw [← (Prod.mk.inj this).1], by rw [← (Prod.mk.inj this).2]⟩⟩
    · cases h
  · rename_i v a rest hin
    split at h
    · cases h
    split at h
    · have := Option.some.inj h
      exact ⟨_, _, hin, .inr ⟨by rw [← (Prod.mk.inj this).1], by rw [← (Prod.mk.inj this).2]⟩⟩
    · exact ⟨_, _, hin, .inl ⟨a, (Option.some.inj h).symm⟩⟩
  · cases h

theorem inputs_same (s : State) (rest : List Input) : SameButBuffers s { s with inputs := rest } := by
  constructor <;> simp [State.slot]

/-- The end of a wait changes buffers, medium, counter, log and inputs alone. -/
theorem reply_same {s t : State} {r : Request} {rep : Reply} (h : s.reply r = some (rep, t)) : SameButBuffers s t := by
  obtain ⟨x, rest, -, ⟨a, ha⟩ | ⟨-, rfl⟩⟩ := reply_cases h
  · have := answer_same { s with inputs := rest } r a
    rw [← ha] at this
    exact (inputs_same s rest).trans this
  · exact (inputs_same s rest).trans (withdraw_same _ _)

theorem reply_device {s : State} {r : Request} {a : DevAnswer} {rest : List Input} (h : s.inputs = .device a :: rest) :
    s.reply r = some (State.answer { s with inputs := rest } r a) := by
  simp [State.reply, h]

/-- All a suspension point can do (R206, R207): wait, go on, or end the command with `IO` or `CANCELLED`. -/
theorem await_cases (s : State) (r : Request) (k : State → State) :
    (s.reply r = none ∧ s.await r k = { s with seq := .wait r }) ∨
      (∃ t, s.reply r = some (.ok, t) ∧ s.await r k = k t) ∨
      (∃ t e, s.reply r = some (.err e, t) ∧ s.await r k = t.raiseIo e) ∨
      (∃ t, s.reply r = some (.cancelled, t) ∧ s.await r k = t.raise .cancelled) := by
  unfold State.await
  cases h : s.reply r with
  | none => exact .inl ⟨rfl, rfl⟩
  | some p =>
    obtain ⟨rep, t⟩ := p
    cases rep with
    | ok => exact .inr (.inl ⟨t, rfl, rfl⟩)
    | err e => exact .inr (.inr (.inl ⟨t, e, rfl, rfl⟩))
    | cancelled => exact .inr (.inr (.inr ⟨t, rfl, rfl⟩))

/-- A suspension point whose answer is there and is success. -/
theorem await_ok {s : State} {r : Request} {rest : List Input} (k : State → State) (h : s.inputs = .device .ok :: rest) :
    s.await r k = k ((State.logged { s with inputs := rest } r .ok).transfer r) := by
  simp [State.await, reply_device h, State.answer, settle]

/-- A suspension point whose answer is there and is an error. -/
theorem await_err {s : State} {r : Request} {rest : List Input} {e : Word} (k : State → State)
    (h : s.inputs = .device (.err e) :: rest) :
    s.await r k = (((State.logged { s with inputs := rest } r (.err e)).spoilBuffer r).spoilMedium r).raiseIo e := by
  simp [State.await, reply_device h, State.answer, settle]

/-- A suspension point with no input left. -/
theorem await_wait {s : State} {r : Request} (k : State → State) (h : s.inputs = []) :
    s.await r k = { s with seq := .wait r } := by
  simp [State.await, State.reply, h]

/-- A reset leaves every slot Empty, no view, an idle sequencer, no mount and no suspended sequence, and keeps the parameters
and the number of slots (R50, R54). -/
theorem performReset_fields (s : State) :
    s.performReset.view.valid = false ∧ s.performReset.seq = .idle ∧ s.performReset.busy = false ∧
      s.performReset.hdrValidated = false ∧ s.performReset.mounted = false ∧ s.performReset.job = none ∧
      s.performReset.cfg = s.cfg ∧ s.performReset.slots.length = s.slots.length := by
  unfold State.performReset
  have h : SameButBuffers s s.withdrawAny := by
    unfold State.withdrawAny
    split
    · exact withdraw_same _ _
    · exact .refl s
  exact ⟨rfl, rfl, rfl, rfl, rfl, rfl, h.cfg, by simp [State.clearController, State.abandonSequence, h.count]⟩

end Sys2Proof.Machine
end

