-- ==== Sys2Proof/Laws/Commands.lean ====
section
/-! SUPPORT. The loops of the commands, one pass each, in terms of the continuation they leave (R32): a suspended command and
one that finds its answer at once go on the same way. -/

namespace Sys2Proof.Machine

open Sys2Proof

theorem constructLoop_zero (base cnt : Nat) (start : Word) (j : Nat) (s : State) :
    constructLoop base cnt start 0 j s = s.loadView base cnt start := rfl

/-- One pass of `Construct` (R121). -/
theorem constructLoop_succ (base cnt : Nat) (start : Word) (left j : Nat) (s : State) :
    constructLoop base cnt start (left + 1) j s =
      if s.mismatched j (start.toNat + (j - base)) then
        if (s.slot j).dirty then
          s.await (s.writeBackOf j (.select base cnt start j left)) (resume (.select base cnt start j left))
        else constructLoop base cnt start left (j + 1) (s.invalidateSlot j)
      else constructLoop base cnt start left (j + 1) s := rfl

theorem fillLoop_zero (j : Nat) (s : State) : fillLoop 0 j s = s.ret (BitVec.ofNat 32 s.view.cnt) 0 := rfl

/-- The refill of a slot (R140). -/
theorem refillFrom_eq (left j : Nat) (t : State) :
    refillFrom left j t =
      (t.invalidateSlot j).await ((t.invalidateSlot j).fillOf j (.fillRead j left)) (resume (.fillRead j left)) := rfl

/-- One pass of `VRD` (R140). -/
theorem fillLoop_succ (left j : Nat) (s : State) :
    fillLoop (left + 1) j s =
      if s.caches j (s.need j) then fillLoop left (j + 1) s
      else if s.dirtyAt j then s.await (s.writeBackOf j (.fillWrite j left)) (resume (.fillWrite j left))
      else refillFrom left j s := rfl

/-- One pass of `FLUSH` (R160). -/
theorem flushLoop_succ (fuel i runs blocks : Nat) (s : State) :
    flushLoop (fuel + 1) i runs blocks s =
      if i < s.slots.length then
        if s.dirtyAt i then
          s.await (s.runOf i (s.runLength i) (.flush i (s.runLength i) fuel runs blocks))
            (resume (.flush i (s.runLength i) fuel runs blocks))
        else flushLoop fuel (i + 1) runs blocks s
      else s.ret (BitVec.ofNat 32 runs) (BitVec.ofNat 32 blocks) := rfl

/-- `HLD` goes on by its continuation. -/
theorem execHld_eq (s : State) :
    execHld s = .next (State.await { s with hdrValidated := false, mounted := false } headerRead (resume headerRead.cont)) := rfl

/-- Every command answers a next state: no command stops the machine (R284). -/
theorem exec_next (i : Instr) (s : State) : ∃ t, exec i s = .next t := by
  cases i <;> exact ⟨_, rfl⟩

/-- A launched descriptor answers a next state, legal or not (R95, R280). -/
theorem runCommand_next (s : State) : ∃ t, s.runCommand = .next t := by
  unfold State.runCommand
  split
  · exact exec_next _ _
  · exact ⟨_, rfl⟩

/-- A store to any register answers a next state (R40). -/
theorem busWrite_next (s : State) (width off : Nat) (v : Word) : ∃ t, s.busWrite width off v = .next t := by
  unfold State.busWrite
  split
  · exact ⟨_, rfl⟩
  · split
    · split
      · exact ⟨_, rfl⟩
      · exact runCommand_next _
    all_goals exact ⟨_, rfl⟩

/-- What a step can do: a suspended command goes on, and with it the host sequence that waits for it, or the next input is
taken (R15, R101). -/
theorem step_cases (s : State) :
    (∃ r rep t, s.seq = .wait r ∧ s.reply r = some (rep, t) ∧
        step s = (settle rep { t with seq := .run } (resume r.cont)).continueSequence) ∨
      ((∀ r, s.seq = .wait r → s.reply r = none) ∧ step s = s.takeInput) := by
  unfold step State.advance
  cases hs : s.seq with
  | idle => exact .inr ⟨by simp, rfl⟩
  | run => exact .inr ⟨by simp, rfl⟩
  | wait r =>
    cases hr : s.reply r with
    | none => exact .inr ⟨by rintro r' ⟨⟩; exact hr, by simp [hr]⟩
    | some p => exact .inl ⟨r, p.1, p.2, rfl, hr, by simp [hr]⟩

/-! ### Host sequences -/

/-- The index or id a host writes for `n` is in range when `n` is (R181, R183, R258). -/
theorem inDirectory_byteOperand (n : Nat) : inDirectory (byteOperand n) = decide (n < maxModels) := by
  unfold inDirectory byteOperand maxModels
  split
  · rw [BitVec.toNat_ofNat, Nat.mod_eq_of_lt (by assumption)]
  · simp; omega

/-- The offset a host writes for `n` is in the view when `n` is (R142, R143). -/
theorem byteInView_offsetOperand {s : State} (h : s.viewBytes < 2 ^ 32) (n : Nat) :
    byteInView s (offsetOperand n) = decide (n < s.viewBytes) := by
  unfold byteInView offsetOperand
  split
  · rw [BitVec.toNat_ofNat, Nat.mod_eq_of_lt (by assumption)]
  · simp; omega

/-- The range a host writes for `off`, `len` is in the view when it is (R141). -/
theorem rangeInView_offsetOperand {s : State} (h : s.viewBytes < 2 ^ 32 - 1) (off len : Nat) :
    rangeInView s (offsetOperand off) (offsetOperand len) = decide (off + len ≤ s.viewBytes) := by
  unfold rangeInView offsetOperand
  split <;> split
  · rw [BitVec.toNat_ofNat, BitVec.toNat_ofNat, Nat.mod_eq_of_lt (by assumption), Nat.mod_eq_of_lt (by assumption)]
  all_goals simp; omega

/-- A `SELX` of numbers its operands cannot hold is refused as R123 refuses them. -/
theorem exec_selxOf {len blk : Nat} (h : 2 ^ 8 ≤ len ∨ 2 ^ 32 ≤ blk) (s : State) :
    exec (selxOf len blk) s = .next (s.raise .badOperand) := by
  rw [selxOf, if_neg (by omega)]
  rfl

/-- A command a host sequence issues answers a next state (R41). -/
theorem issueCommand_next (s : State) (i : Instr) : ∃ t, s.issueCommand i = .next t := by
  unfold State.issueCommand
  obtain ⟨t, ht⟩ := busWrite_next s 4 0x04 (encode i).cmd1
  obtain ⟨u, hu⟩ := busWrite_next t 4 0x08 (encode i).cmd2
  simp only [ht, hu, afterStore]
  exact busWrite_next _ _ _ _

/-- While not busy a command is issued as its three stores: the operands, then the launch (R41, R42). -/
theorem issueCommand_idle {s : State} (h : s.busy = false) (i : Instr) :
    s.issueCommand i =
      (State.launch { s with cmd1 := (encode i).cmd1, cmd2 := (encode i).cmd2 } (encode i).cmd0).runCommand := by
  simp [State.issueCommand, State.busWrite, afterStore, h]

/-- What the host can find when a command of a sequence has been issued, or goes on: it waits, it ended with success, or it
ended with an error, which ends the sequence. -/
theorem commandEnd_cases (s : State) (q : HostSeq) (w : Host.Outcome State Fault Refusal)
    (k : Word × Word → Host.Outcome State Fault Refusal) :
    ((∃ r, s.seq = .wait r) ∧ s.commandEnd q w k = w) ∨
      ((∀ r, s.seq ≠ .wait r) ∧ s.err = .ok ∧ s.commandEnd q w k = k (s.res0, s.res1)) ∨
      ((∀ r, s.seq ≠ .wait r) ∧ s.err ≠ .ok ∧ s.commandEnd q w k = .next (s.hostDone (seqError q s.err))) := by
  unfold State.commandEnd
  split
  · exact .inl ⟨⟨_, by assumption⟩, rfl⟩
  · rename_i hw
    by_cases h : s.err = .ok
    · exact .inr (.inl ⟨hw, h, by simp [h]⟩)
    · exact .inr (.inr ⟨hw, h, by simp [h]⟩)

/-- What every part of a host sequence keeps, the whole sequence keeps. -/
theorem runProg_keeps {P : State → Prop} (hfile : ∀ s f, P s → P (s.setFile f)) (hmount : ∀ s, P s → P s.dispose)
    (hdone : ∀ s r, P s → P (s.hostDone r)) (hwait : ∀ s j, P s → P (s.hostWaits j))
    (hcmd : ∀ s i t, P s → s.issueCommand i = .next t → P t) {q : HostSeq} {file : Option File} (p : Prog HostResult) :
    ∀ (results : List (Word × Word)) (s t : State), P s → runProg q file p results s = .next t → P t := by
  induction p with
  | ret r => intro _ s t hs h; cases h; exact hdone _ _ hs
  | fail e => intro _ s t hs h; cases h; exact hdone _ _ hs
  | refuse r => intro _ s t _ h; cases h
  | abort f => intro _ s t _ h; cases h
  | command i k ih =>
    intro rs s t hs h
    obtain ⟨u, hu⟩ := issueCommand_next s i
    have hP := hcmd s i u hs hu
    simp only [runProg, hu, afterStore] at h
    rcases commandEnd_cases u q (.next (u.hostWaits ⟨q, file, rs⟩))
      (fun r => runProg q file (k r) (rs ++ [r]) u) with ⟨-, hc⟩ | ⟨-, -, hc⟩ | ⟨-, -, hc⟩ <;> rw [hc] at h
    · cases h; exact hwait _ _ hP
    · exact ih _ _ _ _ hP h
    · cases h; exact hdone _ _ hP
  | keep f p ih => intro rs s t hs h; exact ih _ _ _ (hfile _ _ hs) h
  | unmount p ih => intro rs s t hs h; exact ih _ _ _ (hmount _ hs) h

/-- A host sequence that is not over when it stops is suspended at a command that waits. -/
theorem runProg_job {q : HostSeq} {file : Option File} (p : Prog HostResult) :
    ∀ (results : List (Word × Word)) (s t : State), runProg q file p results s = .next t →
      t.job = none ∨ ∃ r rs, t.seq = .wait r ∧ t.job = some ⟨q, file, rs⟩ ∧ t.hostResult = .pending := by
  induction p with
  | ret r => intro _ s t h; cases h; exact .inl rfl
  | fail e => intro _ s t h; cases h; exact .inl rfl
  | refuse r => intro _ s t h; cases h
  | abort f => intro _ s t h; cases h
  | command i k ih =>
    intro rs s t h
    obtain ⟨u, hu⟩ := issueCommand_next s i
    simp only [runProg, hu, afterStore] at h
    rcases commandEnd_cases u q (.next (u.hostWaits ⟨q, file, rs⟩))
      (fun r => runProg q file (k r) (rs ++ [r]) u) with ⟨⟨w, hw⟩, hc⟩ | ⟨-, -, hc⟩ | ⟨-, -, hc⟩ <;> rw [hc] at h
    · cases h; exact .inr ⟨w, rs, hw, rfl, rfl⟩
    · exact ih _ _ _ _ h
    · cases h; exact .inl rfl
  | keep f p ih => intro rs s t h; exact ih _ _ _ h
  | unmount p ih => intro rs s t h; exact ih _ _ _ h

@[simp] theorem after_nil {α : Type} (p : Prog α) : p.after [] = p := by
  cases p <;> rfl

/-- Replaying results in two parts (R101). -/
theorem after_append {α : Type} (p : Prog α) (xs ys : List (Word × Word)) :
    p.after (xs ++ ys) = (p.after xs).after ys := by
  induction p generalizing xs with
  | command i k ih =>
    cases xs with
    | nil => simp
    | cons x xs => exact ih x xs
  | keep f p ih =>
    cases xs with
    | nil => simp
    | cons x xs => exact ih (x :: xs)
  | unmount p ih =>
    cases xs with
    | nil => simp
    | cons x xs => exact ih (x :: xs)
  | _ =>
    cases xs with
    | nil => simp
    | cons x xs => cases ys <;> rfl

/-- With no host sequence suspended the end of a command is the end of the step. -/
theorem continueSequence_none {s : State} (h : s.job = none) : s.continueSequence = .next s := by
  simp [State.continueSequence, h]

end Sys2Proof.Machine
end

