-- ==== Sys2Proof/Laws/PerInstr.lean ====
section
/-! SUPPORT. The family EncodeReserved: the encoding of every command has zero reserved bits (R91, R94). -/

namespace Sys2Proof.Laws.EncodeReserved

open Sys2Proof

/-- The encoding of `i` has `rsv = 0`. -/
def Statement (i : Instr) : Prop := (encode i).rsv = 0

/-- The reserved bits of an encoded first word. -/
theorem cmd0_rsv {op : Nat} (h : op < 256) (k : Byte) : (encodeCmd0 op k).extractLsb' 16 16 = 0#16 := by
  apply BitVec.eq_of_toNat_eq
  have hk := k.isLt
  simp only [encodeCmd0, BitVec.extractLsb'_toNat, BitVec.toNat_ofNat, Nat.shiftRight_eq_div_pow]
  omega

theorem nop : Statement .nop := cmd0_rsv (by decide) _
theorem sel (start : Word) : Statement (.sel start) := cmd0_rsv (by decide) _
theorem selx (len : Byte) (start : Word) : Statement (.selx len start) := cmd0_rsv (by decide) _
theorem vrd : Statement .vrd := cmd0_rsv (by decide) _
theorem vmod (off len : Word) : Statement (.vmod off len) := cmd0_rsv (by decide) _
theorem flush : Statement .flush := cmd0_rsv (by decide) _
theorem vlb (off : Word) : Statement (.vlb off) := cmd0_rsv (by decide) _
theorem vsb (off val : Word) : Statement (.vsb off val) := cmd0_rsv (by decide) _
theorem vlw (off : Word) : Statement (.vlw off) := cmd0_rsv (by decide) _
theorem vsw (off val : Word) : Statement (.vsw off val) := cmd0_rsv (by decide) _
theorem hld : Statement .hld := cmd0_rsv (by decide) _
theorem hval : Statement .hval := cmd0_rsv (by decide) _
theorem hinit : Statement .hinit := cmd0_rsv (by decide) _
theorem hclr : Statement .hclr := cmd0_rsv (by decide) _
theorem hsum : Statement .hsum := cmd0_rsv (by decide) _
theorem hwb : Statement .hwb := cmd0_rsv (by decide) _
theorem hcnt : Statement .hcnt := cmd0_rsv (by decide) _
theorem hget (idx : Byte) : Statement (.hget idx) := cmd0_rsv (by decide) _
theorem hnew : Statement .hnew := cmd0_rsv (by decide) _
theorem hdel (id : Byte) : Statement (.hdel id) := cmd0_rsv (by decide) _
theorem hlw (off : Word) : Statement (.hlw off) := cmd0_rsv (by decide) _
theorem hsw (off val : Word) : Statement (.hsw off val) := cmd0_rsv (by decide) _

end Sys2Proof.Laws.EncodeReserved
end

