-- ==== Sys2Proof/Tests/Slice0.lean ====
section
/-! SUPPORT. Tests: ill-formed operands refused, words written out from the spec's encoding, one or two spec vectors a command,
and for every statement with hypotheses states and operands that meet them. -/

namespace Sys2Proof.Tests

open Sys2Proof Sys2Proof.Machine Sys2Proof.Claims

set_option maxRecDepth 20000

/-! ### Small states -/

/-- An Empty slot (`E` of file 95). -/
def E : Slot := ⟨false, 0, false, zeroBlock⟩
/-- A slot tagged to a block (`T(b, d)` of file 95). -/
def T (b : Word) (d : Bool) : Slot := ⟨true, b, d, zeroBlock⟩
/-- The reset state with these slots and inputs. -/
def cache (slots : List Slot) (ins : List Input) : State := { State.reset with slots := slots, inputs := ins }
/-- With a view as well. -/
def viewing (slots : List Slot) (base cnt : Nat) (start : Word) (ins : List Input) : State :=
  { cache slots ins with view := ⟨true, base, cnt, start⟩ }
/-- The reset state with this header, validated. -/
def header (h : Block) (ins : List Input) : State := { State.reset with hdr := h, hdrValidated := true, inputs := ins }
/-- The reset state waiting for the device. -/
def waiting (r : Request) (ins : List Input) : State := { State.reset with busy := true, seq := .wait r, inputs := ins }
/-- A field of the next state. -/
def after {α : Type} (o : Host.Outcome State Fault Refusal) (f : State → α) : Option α :=
  match o with
  | .next s => some (f s)
  | _ => none
/-- The outcome is a refusal with this name. -/
def refusedWith (o : Host.Outcome State Fault Refusal) (r : Refusal) : Bool :=
  match o with
  | .refused r' => r' = r
  | _ => false
/-- What a test looks at: error, results, tag array (valid, tag, dirty), view valid, and the kind, block and count of each
transaction. -/
structure Seen where
  err : Err
  res0 : Nat
  res1 : Nat
  tags : List (Bool × Nat × Bool)
  view : Bool
  txns : List (ReqKind × Nat × Nat)
  deriving DecidableEq
/-- What a test looks at in `s`. -/
def seen (s : State) : Seen :=
  ⟨s.err, s.res0.toNat, s.res1.toNat, s.slots.map fun x => (x.valid, if x.valid then x.tag.toNat else 0, x.dirty),
    s.view.valid, s.devLog.map fun t => (t.kind, t.blk.toNat, t.cnt)⟩
/-- A header with these entries, the rest zero. -/
def directory (version : Byte) (ws : List Word) : Block :=
  Block.gen fun p => if p = 0 then version else if 4 ≤ p then le32Byte (ws.getD ((p - 4) / 4) 0) ((p - 4) % 4) else 0
/-- A header whose 64 entries all have `start = 1`. -/
def fullDirectory : Block := Block.gen fun p => if 4 ≤ p ∧ p < 260 ∧ p % 4 = 0 then 1 else 0
/-- Entry words of the spec's vectors: `E0`, `E1`, `E2`. -/
def E0 : Word := 0x00400004
def E1 : Word := 0x01400008
def E2 : Word := 0x0240000C

/-! ### Ill-formed operands (R96, R292): one for each check -/

theorem test_wf_selx_zero : (Instr.selx 0 4).wellFormed = false := by decide
theorem test_wf_selx_past_last_block : (Instr.selx 2 0xFFFFFFFF).wellFormed = false := by decide
theorem test_wf_vmod_past : (Instr.vmod 130560 1).wellFormed = false := by decide
theorem test_wf_vlb_past : (Instr.vlb 130560).wellFormed = false := by decide
theorem test_wf_vsb_past : (Instr.vsb 130560 7).wellFormed = false := by decide
theorem test_wf_vlw_misaligned : (Instr.vlw 2).wellFormed = false := by decide
theorem test_wf_vlw_past : (Instr.vlw 130560).wellFormed = false := by decide
theorem test_wf_vsw_misaligned : (Instr.vsw 1 0).wellFormed = false := by decide
theorem test_wf_vsw_past : (Instr.vsw 130560 0).wellFormed = false := by decide
theorem test_wf_hget_64 : (Instr.hget 64).wellFormed = false := by decide
theorem test_wf_hdel_64 : (Instr.hdel 64).wellFormed = false := by decide
theorem test_wf_hlw_misaligned : (Instr.hlw 3).wellFormed = false := by decide
theorem test_wf_hlw_past : (Instr.hlw 512).wellFormed = false := by decide
theorem test_wf_hsw_misaligned : (Instr.hsw 2 0).wellFormed = false := by decide
theorem test_wf_hsw_past : (Instr.hsw 512 0).wellFormed = false := by decide
theorem test_wf_accepts_boundaries :
    ((Instr.selx 1 0xFFFFFFFF).wellFormed && (Instr.vmod 130559 1).wellFormed && (Instr.vlw 130556).wellFormed &&
      (Instr.hget 63).wellFormed && (Instr.hlw 508).wellFormed) = true := by decide

/-! ### Words written out from R91 and R94, every command (EN1 to EN6 and P1 to P7 of file 95) -/

theorem test_decode_nop : decode ⟨0x00000000, 0, 0⟩ = .ok .nop := by decide
theorem test_decode_sel : decode ⟨0x00000010, 0x00000005, 0⟩ = .ok (.sel 5) := by decide
theorem test_decode_selx : decode ⟨0x00000211, 0x00000004, 0⟩ = .ok (.selx 2 4) := by decide
theorem test_decode_vrd : decode ⟨0x00000012, 0, 0⟩ = .ok .vrd := by decide
theorem test_decode_vmod : decode ⟨0x00000013, 0x000001FE, 0x00000004⟩ = .ok (.vmod 510 4) := by decide
theorem test_decode_flush : decode ⟨0x00000014, 0, 0⟩ = .ok .flush := by decide
theorem test_decode_vlb : decode ⟨0x00000018, 0x00000004, 0⟩ = .ok (.vlb 4) := by decide
theorem test_decode_vsb : decode ⟨0x00000019, 0x00000004, 0x0000005A⟩ = .ok (.vsb 4 0x5A) := by decide
theorem test_decode_vlw : decode ⟨0x0000001A, 0x00000008, 0⟩ = .ok (.vlw 8) := by decide
theorem test_decode_vsw : decode ⟨0x0000001B, 0x00000000, 0x000003E8⟩ = .ok (.vsw 0 1000) := by decide
theorem test_decode_hld : decode ⟨0x00000020, 0, 0⟩ = .ok .hld := by decide
theorem test_decode_hval : decode ⟨0x00000021, 0, 0⟩ = .ok .hval := by decide
theorem test_decode_hinit : decode ⟨0x00000022, 0, 0⟩ = .ok .hinit := by decide
theorem test_decode_hclr : decode ⟨0x00000023, 0, 0⟩ = .ok .hclr := by decide
theorem test_decode_hsum : decode ⟨0x00000024, 0, 0⟩ = .ok .hsum := by decide
theorem test_decode_hwb : decode ⟨0x00000025, 0, 0⟩ = .ok .hwb := by decide
theorem test_decode_hcnt : decode ⟨0x00000026, 0, 0⟩ = .ok .hcnt := by decide
theorem test_decode_hget : decode ⟨0x00000127, 0, 0⟩ = .ok (.hget 1) := by decide
theorem test_decode_hnew : decode ⟨0x00000028, 0, 0⟩ = .ok .hnew := by decide
theorem test_decode_hdel : decode ⟨0x00003F29, 0, 0⟩ = .ok (.hdel 63) := by decide
theorem test_decode_hlw : decode ⟨0x0000002A, 0x000001FC, 0⟩ = .ok (.hlw 508) := by decide
theorem test_decode_hsw : decode ⟨0x0000002B, 0x000001FC, 0x00000001⟩ = .ok (.hsw 508 1) := by decide
/-- Fields a format does not read are ignored: EN14 to EN17. -/
theorem test_decode_ignored_fields :
    decode ⟨0x00000100, 0, 0⟩ = .ok .nop ∧ decode ⟨0x0000FF00, 0xFFFFFFFF, 0xFFFFFFFF⟩ = .ok .nop ∧
      decode ⟨0x00000210, 5, 7⟩ = .ok (.sel 5) ∧ decode ⟨0x00000014, 9, 9⟩ = .ok .flush := by decide
/-- EN7, EN8. -/
theorem test_decode_reserved_bits :
    decode ⟨0x00010010, 5, 0⟩ = .error .reservedBits ∧ decode ⟨0x80000000, 0, 0⟩ = .error .reservedBits := by decide
/-- EN9 to EN13, and the ends of the other reserved ranges of R95. -/
theorem test_decode_unknown_opcode :
    [0x01, 0x0F, 0x15, 0x17, 0x1C, 0x1F, 0x2C, 0xFF].all
      (fun op => decode ⟨BitVec.ofNat 32 op, 0, 0⟩ = .error .unknownOpcode) = true := by decide +kernel
theorem test_decode_table_word : decodeTableWord 32 0x00000211 = some (.selx 2 0) := by decide
/-- R100: the encoding of `SELX 2, 1`. -/
theorem test_encode_selx : encode (.selx 2 1) = ⟨0x00000211, 0x00000001, 0x00000000⟩ := by decide

/-! ### One step on a small state: vectors of file 95 -/

/-- EN1. -/
theorem test_nop : after (exec .nop (cache [T 5 true, E] [])) seen =
    some ⟨.ok, 0, 0, [(true, 5, true), (false, 0, false)], false, []⟩ := by decide +kernel
/-- S7: the slot after the predecessor, its dirty block written back first. -/
theorem test_sel_evicts_dirty : after (exec (.sel 5) (cache [T 4 false, T 9 true] [.device .ok])) seen =
    some ⟨.ok, 1, 1, [(true, 4, false), (false, 0, false)], true, [(.wr, 9, 1)]⟩ := by decide +kernel
/-- S23: a hit, extended forward. -/
theorem test_sel_extends_hit :
    after (exec (.sel 4) (cache [T 3 false, T 4 true, T 5 false, T 6 true] [])) seen =
      some ⟨.ok, 3, 1, [(true, 3, false), (true, 4, true), (true, 5, false), (true, 6, true)], true, []⟩ := by
  decide +kernel
/-- X4. -/
theorem test_selx_writes_back_both :
    after (exec (.selx 2 1) (cache [T 2 true, T 1 true] [.device .ok, .device .ok])) seen =
      some ⟨.ok, 2, 0, [(false, 0, false), (false, 0, false)], true, [(.wr, 2, 1), (.wr, 1, 1)]⟩ := by decide +kernel
/-- X10: `len = 0` is refused and the view kept. -/
theorem test_selx_refuses_zero : after (exec (.selx 0 1) (viewing [T 3 false, E] 0 1 3 [])) seen =
    some ⟨.badOperand, 0, 0, [(true, 3, false), (false, 0, false)], true, []⟩ := by decide +kernel
/-- The example of R140. -/
theorem test_vrd_fills_missing : after (exec .vrd (viewing [T 4 true, E] 0 2 4 [.device .ok])) seen =
    some ⟨.ok, 2, 0, [(true, 4, true), (true, 5, false)], true, [(.rd, 5, 1)]⟩ := by decide +kernel
/-- R140: a failed read leaves the slot Empty and the view valid. -/
theorem test_vrd_fails : after (exec .vrd (viewing [T 4 true, E] 0 2 4 [.device (.err 7)])) (fun s => (seen s, s.errInfo)) =
    some (⟨.io, 0, 0, [(true, 4, true), (false, 0, false)], true, [(.rd, 5, 1)]⟩, 7) := by decide +kernel
/-- The example of R141. -/
theorem test_vmod_marks_two : after (exec (.vmod 510 4) (viewing [E, T 5 false] 0 2 4 [])) seen =
    some ⟨.ok, 2, 0, [(true, 4, true), (true, 5, true)], true, []⟩ := by decide +kernel
/-- R141: a range that ends on a slot boundary does not mark the next slot. -/
theorem test_vmod_boundary : after (exec (.vmod 508 4) (viewing [E, T 5 false] 0 2 4 [])) seen =
    some ⟨.ok, 1, 0, [(true, 4, true), (true, 5, false)], true, []⟩ := by decide +kernel
/-- The example of R160. -/
theorem test_flush_two_runs :
    after (exec .flush (cache [T 8 true, T 9 true, T 3 false, T 10 true] [.device .ok, .device .ok])) seen =
      some ⟨.ok, 2, 3, [(true, 8, false), (true, 9, false), (true, 3, false), (true, 10, false)], false,
        [(.wr, 8, 2), (.wr, 10, 1)]⟩ := by decide +kernel
/-- P4 step 1: cancelled at the second run. -/
theorem test_flush_cancelled :
    after (exec .flush (cache [T 8 true, T 9 true, T 3 false, T 10 true] [.device .ok, .write 4 0x1C 1])) seen =
      some ⟨.cancelled, 0, 0, [(true, 8, false), (true, 9, false), (true, 3, false), (true, 10, true)], false,
        [(.wr, 8, 2), (.wr, 10, 1)]⟩ := by decide +kernel
/-- R142's example: `VLB 4` of `02 00 00 00 01`. -/
theorem test_vlb : after (exec (.vlb 4)
    (viewing [{ T 4 false with data := Block.gen fun p => if p = 0 then 2 else if p = 4 then 1 else 0 }, E] 0 1 4 []))
    (fun s => (s.err, s.res0)) = some (.ok, 1) := by decide +kernel
/-- R143: only `val[7:0]` is stored, and nothing is marked. -/
theorem test_vsb : after (exec (.vsb 513 0xFFFFFF5A) (viewing [T 4 false, T 5 false] 0 2 4 []))
    (fun s => (s.err, blockByte (s.slot 1).data 1, blockByte (s.slot 1).data 2, (s.slot 1).dirty)) =
      some (.ok, 0x5A, 0, false) := by decide +kernel
/-- R144's example. -/
theorem test_vlw : after (exec (.vlw 0) (viewing [{ T 4 false with data := Block.gen fun p => if p = 0 then 9 else 0 }, E]
    0 1 4 [])) (fun s => (s.err, s.res0)) = some (.ok, 9) := by decide +kernel
/-- R62: a misaligned word offset. -/
theorem test_vlw_misaligned : after (exec (.vlw 2) (viewing [T 4 false, E] 0 1 4 [])) (fun s => s.err) = some .badOperand := by
  decide +kernel
/-- R60: the four bytes of a stored word, lowest first. -/
theorem test_vsw_little_endian : after (exec (.vsw 508 0x04030201) (viewing [T 4 false, E] 0 1 4 []))
    (fun s => (List.range 4).map fun q => blockByte (s.slot 0).data (508 + q)) = some [1, 2, 3, 4] := by decide +kernel
/-- R178: a load clears `hdr_validated` and takes block 0. -/
theorem test_hld : after (exec .hld { header fullDirectory [.device .ok] with medium := [(0, 7)] })
    (fun s => (s.err, s.hdrValidated, blockByte s.hdr 0, blockByte s.hdr 4)) = some (.ok, false, 7, 0) := by decide +kernel
/-- R174's example: version 1, no entries, checksum `0x5C237AAE` (depends on log entry 4). -/
theorem test_hval_empty_directory :
    after (exec .hval { State.reset with hdr := blockSetWord (directory 1 []) 508 0x5C237AAE })
      (fun s => (s.err, s.res0, s.res1, s.hdrValidated)) = some (.ok, 0, 1, true) := by decide +kernel
/-- R174: version 0 is `HDR_MISSING` before the checksum is looked at. -/
theorem test_hval_missing : after (exec .hval (header zeroBlock [])) (fun s => (s.err, s.hdrValidated)) =
    some (.hdrMissing, false) := by decide +kernel
/-- R175. -/
theorem test_hinit : after (exec .hinit (header zeroBlock [])) (fun s => (blockByte s.hdr 0, s.hdrValidated)) =
    some (1, true) := by decide +kernel
/-- R176. -/
theorem test_hclr : after (exec .hclr (header fullDirectory [])) (fun s => (blockByte s.hdr 4, s.hdrValidated)) =
    some (0, false) := by decide +kernel
/-- R177: the bytes before the checksum field stay (its value is in `test_hval_empty_directory`). -/
theorem test_hsum : after (exec .hsum (header (directory 1 [E0]) []))
    (fun s => (s.err, blockByte s.hdr 0, blockByte s.hdr 507, s.hdrValidated)) = some (.ok, 1, 0, true) := by decide +kernel
/-- P1 step 25: one write of block 0. -/
theorem test_hwb : after (exec .hwb (header (directory 1 [E0]) [.device .ok])) (fun s => (s.err, (seen s).txns)) =
    some (.ok, [(.wr, 0, 1)]) := by decide +kernel
/-- P3 step 14. -/
theorem test_hcnt_gated : after (exec .hcnt { header zeroBlock [] with hdrValidated := false }) (fun s => s.err) =
    some .notValidated := by decide +kernel
/-- P3 step 16: three live entries. -/
theorem test_hcnt : after (exec .hcnt (header (directory 1 [E0, E2, E1]) [])) (fun s => (s.err, s.res0)) = some (.ok, 3) := by
  decide +kernel
/-- P3 step 18. -/
theorem test_hget : after (exec (.hget 1) (header (directory 1 [E0, E2, E1]) [])) (fun s => (s.res0, s.res1)) =
    some (0x0240000C, 1) := by decide +kernel
/-- P3 step 20: past the end of the iteration. -/
theorem test_hget_end : after (exec (.hget 3) (header (directory 1 [E0, E2, E1]) [])) (fun s => (s.err, s.res0, s.res1)) =
    some (.ok, 0, 0) := by decide +kernel
/-- R182's example: the freed id 1 again, at index 2. -/
theorem test_hnew_lowest_free : after (exec .hnew (header (directory 1 [E0, E2]) []))
    (fun s => (s.err, s.res0, s.res1, blockWord s.hdr 12)) = some (.ok, 0x01400008, 2, 0x01400008) := by decide +kernel
/-- FX11. -/
theorem test_hnew_full : after (exec .hnew (header fullDirectory [])) (fun s => (s.err, s.res0)) =
    some (.tooManyModels, 0) := by decide +kernel
/-- R183's example. -/
theorem test_hdel_middle : after (exec (.hdel 1) (header (directory 1 [E0, E1, E2]) []))
    (fun s => (s.res0, s.res1, blockWord s.hdr 8, blockWord s.hdr 12)) = some (1, 2, 0x0240000C, 0) := by decide +kernel
/-- FX16: an absent id. -/
theorem test_hdel_absent : after (exec (.hdel 9) (header (directory 1 [E0]) [])) (fun s => (s.err, s.res0, s.res1)) =
    some (.ok, 0, 1) := by decide +kernel
/-- R184's example: after `HCLR; HINIT`. -/
theorem test_hlw : after (exec (.hlw 0) (header (directory 1 []) [])) (fun s => (s.err, s.res0)) = some (.ok, 1) := by
  decide +kernel
/-- R185: the last word. -/
theorem test_hsw : after (exec (.hsw 508 0x11223344) (header zeroBlock []))
    (fun s => (blockByte s.hdr 508, blockByte s.hdr 511, s.hdrValidated)) = some (0x44, 0x11, true) := by decide +kernel
/-- EN7 through the register port: `RES0` is the word stored to `CMD0`. -/
theorem test_illegal_command : after (step (cache [E, E] [.write 4 0 0x00010010]))
    (fun s => (s.err, s.res0, s.res1, s.busy, s.done)) = some (.illegalCommand, 0x00010010, 0, false, true) := by decide +kernel
/-- The reset state runs the first word it is given. -/
theorem test_first_word_runs : after (step (State.reset.withFetchWord 32 0x00000210)) (fun s => (s.err, s.res0, s.view.valid)) =
    some (.ok, 1, true) := by decide +kernel

/-! ### Host sequences -/

/-- A slot tagged to block 4 whose first word is `n`. -/
def prefixed (n : Nat) : Slot := { T 4 false with data := Block.gen fun p => le32Byte (BitVec.ofNat 32 n) p }
/-- The reset state in the middle of `Filesystem.new`: its `HLD` waits. -/
def mounting (ins : List Input) : State := { waiting headerRead ins with job := some ⟨.fsNew, none, []⟩ }

/-- R251: `Filesystem.new` waits for its `HLD` when the host loads `STATUS` before the device answers. -/
theorem test_host_sequence_suspends : after (step (cache [E, E] [.call .fsNew, .read 4 0x0C]))
    (fun s => (s.seq, s.hostResult, s.job)) = some (.wait headerRead, .pending, some ⟨.fsNew, none, []⟩) := by decide +kernel
/-- R251: it goes on with `HVAL` after the answer; the medium's block 0 is all zero: `InitError(Missing)`. -/
theorem test_host_sequence_goes_on : after (step (mounting [.device .ok])) (fun s => (s.err, s.hostResult, s.job)) =
    some (.hdrMissing, .initError .hdrMissing, none) := by decide +kernel
/-- R304: a device error of its `HLD` is an `InitError` too. -/
theorem test_host_sequence_fails : after (step (mounting [.device (.err 7)])) (fun s => (s.errInfo, s.hostResult, s.job)) =
    some (7, .initError .io, none) := by decide +kernel
/-- R222's example: a stored prefix of 9. -/
theorem test_file_open : after (step (cache [prefixed 9, E] [.call (.fileOpen 4 8)])) (fun s => s.file) =
    some (some ⟨4, 8, 13, 4, false, false⟩) := by decide +kernel
/-- R319, U4: the largest prefix a region of four blocks holds is 2044. -/
theorem test_file_open_refuses_oversized_prefix :
    (after (step (cache [prefixed 2044, E] [.call (.fileOpen 4 8)])) (fun s => s.file.map File.len) = some (some 2048)) ∧
      refusedWith (step (cache [prefixed 2045, E] [.call (.fileOpen 4 8)])) .storedLengthTooLarge = true := by decide +kernel
/-- R258, R183: every `id` not below 64 ends with `BAD_OPERAND`, also one the 8-bit `k` cannot hold, unless the header is not
validated (R186). -/
theorem test_delete_model_bad_id :
    ([64, 255, 256, 1000].all fun id => after (step (header zeroBlock [.call (.fsDeleteModel id)])) (fun s => s.hostResult) =
        some (.err .badOperand)) = true ∧
      after (step (cache [E, E] [.call (.fsDeleteModel 256)])) (fun s => s.hostResult) = some (.err .notValidated) := by
  decide +kernel
/-- R123, R225: a read whose first block is past `0xFFFFFFFF`. -/
theorem test_file_read_past_last_block :
    after (step { cache [E, E] [.call (.fileRead 1)] with file := some ⟨0xFFFFFFFF, 0x100000003, 1024, 512, false, false⟩ })
      (fun s => (s.err, s.hostResult)) = some (.badOperand, .err .badOperand) := by decide +kernel
/-- R259 with no Filesystem instance: its expansion runs as it stands (log entry 28). -/
theorem test_flush_without_instance : after (step (cache [T 5 true, E] [.call .fsFlush, .device .ok]))
    (fun s => (s.hostResult, (seen s).txns)) = some (.done, [(.wr, 5, 1)]) := by decide +kernel

/-! ### Witnesses: states and operands that meet a statement's hypotheses -/

/-- The write-back request of a `SEL 5` that waits at slot 0. -/
def selWait : Request := (cache [T 9 true, E] []).writeBackOf 0 (.select 0 1 5 0 0)
/-- The read request of a `VRD` that waits at slot 1. -/
def fillWait : Request := (viewing [T 4 true, E] 0 2 4 []).fillOf 1 (.fillRead 1 0)
/-- A waiting `FLUSH`, its first run outstanding, the device about to acknowledge. -/
def flushing : State :=
  { cache [T 8 true, T 9 true] [.device .ok] with
    busy := true
    seq := .wait ((cache [T 8 true, T 9 true] []).runOf 0 2 (.flush 0 2 1 0 0)) }

theorem witness_DecodeEncodeRoundTrip : decode ⟨0x0000FF10, 5, 7⟩ = .ok (.sel 5) := by decide

theorem witness_IllegalCommandReport :
    let s := cache [E, E] [.write 4 0 0x0000002C]
    s.seq = .idle ∧ s.busy = false ∧ s.inputs = .write 4 0 0x2C :: [] ∧ ((0x2C : Word) &&& 0xFFFF00FF#32).toNat ∉ opcodes := by
  decide

theorem witness_StepRunsLaunchedCommand :
    let s := { cache [E, E] [.write 4 0 0x211] with cmd1 := 4 }
    s.seq = .idle ∧ s.busy = false ∧ s.inputs = .write 4 0 0x211 :: [] ∧ decode ⟨0x211, s.cmd1, s.cmd2⟩ = .ok (.selx 2 4) := by
  decide

theorem witness_OperandRegisterStores_idle :
    ∀ off ∈ [4, 8], let s := cache [E, E] [.write 4 off 5]
      s.seq = .idle ∧ s.busy = false ∧ s.inputs = .write 4 off 5 :: [] := by decide

theorem witness_OperandRegisterStores_busy :
    ∀ off ∈ [0, 4, 8], let s := waiting headerRead [.write 4 off 5]
      s.seq = .wait headerRead ∧ s.busy = true ∧ (off = 0 ∨ off = 4 ∨ off = 8) ∧ s.inputs = .write 4 off 5 :: [] := by decide

/-- A narrow store to `CMD0`, stores to `STATUS` and `RES0`, an unlisted and a misaligned offset, and the window past
`CAP`; idle and waiting. -/
theorem witness_StoresElsewhereAreIgnored :
    ∀ x ∈ [(1, 0), (4, 0x0C), (4, 0x10), (4, 0x2C), (4, 1), (4, 0x28), (8, 0)],
      (cache [E, E] [.write x.1 x.2 5]).inputs = .write x.1 x.2 5 :: [] ∧
        (waiting headerRead [.write x.1 x.2 5]).inputs = .write x.1 x.2 5 :: [] ∧
        (x.1 ≠ 4 ∨ (x.2 ≠ 0 ∧ x.2 ≠ 4 ∧ x.2 ≠ 8 ∧ x.2 ≠ 0x1C)) := by decide

theorem witness_LateAnswerEqualsPromptAnswer :
    let s := { State.reset with seq := .run }
    s.job = none ∧ ∃ t, exec .hld { s with inputs := [] } = .next t ∧ t.inputs = [] ∧ t.seq = .wait headerRead :=
  ⟨rfl, _, rfl, rfl, rfl⟩

/-- The example of R160 (and P4): a `FLUSH` that has written its first run waits at the second. -/
theorem witness_LateAnswerEqualsPromptAnswer_second :
    let s := { cache [T 8 true, T 9 true, T 3 false, T 10 true] [] with seq := .run }
    s.job = none ∧ after (exec .flush { s with inputs := [.device .ok] })
        (fun t => (t.inputs, match t.seq with | .wait r => some r.cont | _ => none)) =
      some ([], some (.flush 3 1 1 1 2)) := by decide +kernel

/-- `Filesystem.new` right after reset. -/
theorem witness_LateAnswerContinuesHostSequence :
    let s := State.reset
    s.seq = .idle ∧ s.busy = false ∧ s.job = none ∧
      ∃ t, State.call { s with inputs := [] } .fsNew = .next t ∧ t.inputs = [] ∧ t.seq = .wait headerRead :=
  ⟨rfl, rfl, rfl, _, rfl, rfl, rfl⟩

/-- `File.open` whose `SEL` has written back a dirty slot waits again, at its `VRD`. -/
theorem witness_LateAnswerContinuesHostSequence_second :
    let s := cache [T 9 true, E] []
    s.seq = .idle ∧ s.busy = false ∧ s.job = none ∧
      after (State.call { s with inputs := [.device .ok] } (.fileOpen 4 8))
          (fun t => (t.inputs, (match t.seq with | .wait r => some r.cont | _ => none), t.job)) =
        some ([], some (.fillRead 0 0), some ⟨.fileOpen 4 8, none, [(1, 0)]⟩) := by decide +kernel

/-- A `SEL` that has reached its write-back, with the ideal device's last block; a `CTRL` store of neither bit with an answer. -/
theorem witness_SuccessfulAnswersAgree :
    let s := { waiting selWait [] with cfg := { productionConfig with devBlocks := 10 } }
    s.seq = .wait selWait ∧ isSuccess s selWait (.device .ok) ∧ isSuccess s selWait (.device .ideal) ∧
      isSuccess s selWait (.ctrlWith 0xFFFFFFFC .ideal) :=
  ⟨rfl, ⟨.ok, .inl rfl, .inl rfl⟩, ⟨.ideal, .inr ⟨rfl, by decide⟩, .inl rfl⟩,
    ⟨.ideal, .inr ⟨rfl, by decide⟩, .inr ⟨_, by decide, by decide, rfl⟩⟩⟩

theorem witness_CancelEndsWait_write :
    let s := waiting selWait [.write 4 0x1C 1]
    s.seq = .wait selWait ∧ s.inputs = .write 4 0x1C 1 :: [] ∧ isCancel (.write 4 0x1C 1) ∧ selWait.kind = .wr :=
  ⟨rfl, rfl, ⟨1, by decide, by decide, .inl rfl⟩, rfl⟩

theorem witness_CancelEndsWait_read_slot :
    let s := waiting fillWait [.ctrlWith 0xFFFFFFFD .ok]
    s.seq = .wait fillWait ∧ s.inputs = .ctrlWith 0xFFFFFFFD .ok :: [] ∧ isCancel (.ctrlWith 0xFFFFFFFD .ok) ∧
      fillWait.kind = .rd ∧ fillWait.buf = .slots 1 :=
  ⟨rfl, rfl, ⟨0xFFFFFFFD, by decide, by decide, .inr ⟨.ok, rfl⟩⟩, rfl, rfl⟩

theorem witness_CancelEndsWait_read_header :
    let s := waiting headerRead [.write 4 0x1C 1]
    s.seq = .wait headerRead ∧ s.inputs = .write 4 0x1C 1 :: [] ∧ isCancel (.write 4 0x1C 1) ∧ headerRead.kind = .rd ∧
      headerRead.buf = .header :=
  ⟨rfl, rfl, ⟨1, by decide, by decide, .inl rfl⟩, rfl, rfl⟩

theorem witness_CancelWhenIdleHasNoEffect :
    let s := cache [T 5 true, E] [.write 4 0x1C 1]
    s.seq = .idle ∧ (1 : Word).getLsbD 1 = false ∧ s.inputs = .write 4 0x1C 1 :: [] := by decide

theorem witness_DeviceErrorEndsWait :
    (let s := waiting selWait [.device (.err 7)];
      s.seq = .wait selWait ∧ s.inputs = .device (.err 7) :: [] ∧ selWait.kind = .wr) ∧
    (let s := waiting headerRead [.device (.err 0)];
      s.seq = .wait headerRead ∧ s.inputs = .device (.err 0) :: [] ∧ headerRead.kind = .rd ∧ headerRead.buf = .header) := by
  decide

/-- The failing answers: any code, and the ideal mock device's on the first block it does not have; a sequence waits. -/
theorem witness_DeviceErrorEndsWait_answers :
    isFailure (waiting selWait []) selWait (.err 7) 7 ∧
      (let s := { waiting fillWait [.device .ideal] with
          cfg := { productionConfig with devBlocks := 5 }
          job := some ⟨.fsReadConfig, none, [(1, 0)]⟩ };
        s.seq = .wait fillWait ∧ s.inputs = .device .ideal :: [] ∧ isFailure s fillWait .ideal 1 ∧ fillWait.kind = .rd ∧
          fillWait.buf = .slots 1 ∧ s.job = some ⟨.fsReadConfig, none, [(1, 0)]⟩) :=
  ⟨.inl rfl, rfl, rfl, .inr ⟨rfl, rfl, by decide⟩, rfl, rfl, rfl⟩

theorem witness_ResetFromAnyState :
    isResetInput .hardReset ∧ isResetInput (.write 4 0x1C 3) ∧ isResetInput (.ctrlWith 2 .ok) ∧
      (waiting selWait [.write 4 0x1C 3]).inputs = .write 4 0x1C 3 :: [] ∧
      (waiting selWait [.write 4 0x1C 3]).seq = .wait selWait ∧ selWait.kind = .wr ∧
      (0 < 512 * selWait.blk.toNat ∨ 512 * (selWait.blk.toNat + selWait.cnt) ≤ 0) :=
  ⟨.inl rfl, .inr ⟨3, by decide, .inl rfl⟩, .inr ⟨2, by decide, .inr ⟨.ok, rfl⟩⟩, rfl, rfl, rfl, by decide⟩

/-- A waiting `FLUSH` meets the invariant and a step of it answers a next state. -/
theorem witness_StepKeepsMachineInvariant : flushing.Inv ∧ ∃ t, step flushing = .next t := by
  refine ⟨⟨by decide, by decide, cksum_detectsFlips, ?_, ?_, ?_, fun _ => ⟨_, rfl⟩, by decide⟩, ⟨_, rfl⟩⟩
  · unfold State.SlotsOk; decide
  · intro h; exact absurd h (by decide)
  · refine ⟨rfl, rfl, rfl, ⟨by decide, by decide, ?_⟩, by decide, rfl⟩
    decide

theorem witness_StepKeepsTagsUnique : flushing.Inv ∧ flushing.slots.length ≤ 2 ∧ flushing.UniqueInv := by
  refine ⟨witness_StepKeepsMachineInvariant.1, by decide, ?_, ?_, ?_⟩
  · unfold State.TagsUnique; decide
  · intro h; exact absurd h (by decide)
  · intro r base cnt start j left h hc
    cases h
    cases hc

/-- In that step the dirty slot 0 becomes clean. -/
theorem witness_DirtyDataIsWrittenBeforeItIsDropped :
    flushing.Inv ∧ flushing.job = none ∧ (∀ x rest, flushing.inputs = x :: rest → ¬ isResetInput x ∧ ∀ q, x ≠ .call q) ∧
      flushing.dirtyAt 0 = true ∧ 0 < flushing.slots.length ∧
      ∃ t, step flushing = .next t ∧ ¬ (t.dirtyAt 0 = true ∧ (t.slot 0).tag = (flushing.slot 0).tag) := by
  refine ⟨witness_StepKeepsMachineInvariant.1, rfl, ?_, by decide, by decide, ⟨_, rfl, by decide +kernel⟩⟩
  intro x rest h
  cases h
  refine ⟨?_, by intro q h; cases h⟩
  rintro (h | ⟨v, -, h | ⟨a, h⟩⟩) <;> cases h

/-- A view, and a `FLUSH` of its dirty slot; and the wait of `flushing` as it ends. -/
theorem witness_DirtyDataIsWrittenBeforeItIsDropped_command :
    let s := viewing [T 4 true, E] 0 2 4 [.device .ok]
    s.ViewOk ∧ s.dirtyAt 0 = true ∧ (∃ t, exec .flush s = .next t ∧ t.dirtyAt 0 = false) ∧
      flushing.Inv ∧ ∃ r u, flushing.seq = .wait r ∧ flushing.reply r = some (.ok, u) := by
  refine ⟨?_, by decide, ⟨_, rfl, by decide +kernel⟩, witness_StepKeepsMachineInvariant.1, _, _, rfl, rfl⟩
  intro _
  refine ⟨by unfold State.WindowOk; decide, ?_⟩
  unfold State.WindowTags
  decide

theorem witness_StepKeepsFileBounds :
    let s := { State.reset with
      file := some ⟨4, 8, 13, 13, false, true⟩
      inputs := [.call (.fileSeek .start 0)] }
    fileOk s ∧ ∃ t, step s = .next t := by
  refine ⟨?_, ⟨_, rfl⟩⟩
  intro f h
  rcases h with h | ⟨j, h, -⟩
  · cases h; decide
  · cases h

/-- S13: a hit on the highest block; S12: `start = 0`; S7: after the predecessor. -/
theorem witness_SelSelectsWindow_hit :
    isSelPlan (cache [T 0xFFFFFFFF false, T 0 false] []) 0xFFFFFFFF 0 1 ∧
      (cache [T 0xFFFFFFFF false, T 0 false] []).inputs =
        oks (victims (cache [T 0xFFFFFFFF false, T 0 false] []) 0 1 0xFFFFFFFF).length [] :=
  ⟨.inl ⟨by decide, by decide, by decide, by decide, by decide, by decide⟩, by decide⟩

theorem witness_SelSelectsWindow_default :
    isSelPlan (cache [T 9 true, E] [.device .ok]) 0 0 1 ∧
      (cache [T 9 true, E] [.device .ok]).inputs = oks (victims (cache [T 9 true, E] [.device .ok]) 0 1 0).length [] :=
  ⟨.inr ⟨by decide, rfl, .inr ⟨rfl, .inl (by decide)⟩⟩, by decide⟩

theorem witness_SelSelectsWindow_predecessor :
    isSelPlan (cache [T 4 false, T 9 true] [.device .ok]) 5 1 1 ∧
      (cache [T 4 false, T 9 true] [.device .ok]).inputs =
        oks (victims (cache [T 4 false, T 9 true] [.device .ok]) 1 1 5).length [] :=
  ⟨.inr ⟨by decide, rfl, .inl ⟨0, rfl, by decide, by decide, by decide, by decide⟩⟩, by decide⟩

/-- X4 at `len = N`; the highest start that fits, with `len = N` and with `len = 1`. -/
theorem witness_SelxSelectsWindow :
    (let s := cache [T 2 true, T 1 true] [.device .ok, .device .ok];
      1 ≤ (2 : Byte).toNat ∧ (2 : Byte).toNat ≤ s.slots.length ∧ (1 : Word).toNat + (2 : Byte).toNat ≤ 2 ^ 32 ∧
        isSelxBase s 2 1 0 ∧ s.inputs = oks (victims s 0 2 1).length []) ∧
    (let s := cache [E, T 0xFFFFFFFE false] [];
      (0xFFFFFFFE : Word).toNat + (2 : Byte).toNat ≤ 2 ^ 32 ∧ (0xFFFFFFFF : Word).toNat + (1 : Byte).toNat ≤ 2 ^ 32 ∧
        isSelxBase s 1 0xFFFFFFFE 1 ∧ s.inputs = oks (victims s 1 1 0xFFFFFFFE).length []) := by
  refine ⟨⟨by decide, by decide, by decide, .inr ⟨?_, .inr ⟨rfl, .inr ?_⟩⟩, by decide⟩, by decide, by decide,
    .inl ⟨by decide, by decide, by decide⟩, by decide⟩
  · intro k hk
    have : k = 0 := by simp [cache] at hk; omega
    subst this; decide
  · intro i hi
    simp [cache] at hi

/-- S24 and S25; and X4 failing at its second write-back. -/
theorem witness_SelectionWriteBackFails_sel :
    ∀ x ∈ [(Input.device (.err 7), Reply.err 7), (.write 4 0x1C 1, .cancelled)],
      let s := cache [T 9 true, E] [x.1]
      isSelPlan s 5 0 1 ∧ (victims s 0 1 5)[0]? = some 0 ∧ s.inputs = oks 0 (x.1 :: []) ∧ failsWith x.1 x.2 := by
  intro x hx
  have hp : isSelPlan (cache [T 9 true, E] [x.1]) 5 0 1 := by
    refine .inr ⟨?_, rfl, .inr ⟨rfl, .inr ?_⟩⟩
    · intro k hk
      simp only [cache, List.length_cons, List.length_nil] at hk
      interval_cases k <;> rfl
    · intro i hi
      simp only [cache, List.length_cons, List.length_nil] at hi
      have : i = 0 := by omega
      subst this; rfl
  refine ⟨hp, rfl, rfl, ?_⟩
  simp only [List.mem_cons, List.not_mem_nil, or_false] at hx
  rcases hx with rfl | rfl
  · exact .inl ⟨7, rfl, rfl⟩
  · exact .inr ⟨⟨1, by decide, by decide, .inl rfl⟩, rfl⟩

theorem witness_SelectionWriteBackFails_selx :
    let s := cache [T 2 true, T 1 true] [.device .ok, .device (.err 1)]
    (2 : Byte).toNat = 2 ∧ 1 ≤ 2 ∧ 2 ≤ s.slots.length ∧ (1 : Word).toNat + 2 ≤ 2 ^ 32 ∧ isSelxBase s 2 1 0 ∧
      (victims s 0 2 1)[1]? = some 1 ∧ s.inputs = oks 1 (.device (.err 1) :: []) ∧
      failsWith (.device (.err 1)) (.err 1) := by
  refine ⟨by decide, by decide, by decide, by decide, .inr ⟨?_, .inr ⟨rfl, .inr ?_⟩⟩, by decide, by decide,
    .inl ⟨1, rfl, rfl⟩⟩
  · intro k hk
    have : k = 0 := by simp [cache] at hk; omega
    subst this; decide
  · intro i hi
    simp [cache] at hi

theorem witness_ViewCommandsNeedAView : State.reset.view.valid = false := by decide

/-- Every operand check at its boundary. -/
theorem witness_BadOperandChangesNothing :
    let s := { viewing [T 4 false, T 5 false] 0 2 4 [] with hdrValidated := true }
    s.view.valid = true ∧ s.hdrValidated = true ∧ (0 : Byte).toNat = 0 ∧ s.slots.length < (3 : Byte).toNat ∧
      2 ^ 32 < (0xFFFFFFFF : Word).toNat + (2 : Byte).toNat ∧
      512 * s.view.cnt < (1024 : Word).toNat + (1 : Word).toNat ∧ 512 * s.view.cnt ≤ (1024 : Word).toNat ∧
      (1022 : Word).toNat % 4 ≠ 0 ∧ 512 * s.view.cnt < (1024 : Word).toNat + 4 ∧ 64 ≤ (64 : Byte).toNat ∧
      508 < (512 : Word).toNat := by decide

theorem witness_ViewOk : (viewing [T 4 true, E] 0 2 4 [.device .ok]).ViewOk := by
  intro _
  refine ⟨by unfold State.WindowOk; decide, ?_⟩
  unfold State.WindowTags
  decide

theorem witness_VrdFillsMissingSlots :
    let s := viewing [T 4 true, E] 0 2 4 [.device .ok]
    s.view.valid = true ∧ s.ViewOk ∧ s.inputs = oks (missing s).length [] := ⟨rfl, witness_ViewOk, by decide⟩

theorem witness_VrdReadFails :
    let s := viewing [E, E] 0 2 4 [.device .ok, .write 4 0x1C 1]
    s.view.valid = true ∧ s.ViewOk ∧ (missing s)[1]? = some 1 ∧ s.inputs = oks 1 (.write 4 0x1C 1 :: []) ∧
      failsWith (.write 4 0x1C 1) .cancelled := by
  refine ⟨rfl, ?_, by decide, by decide, .inr ⟨⟨1, by decide, by decide, .inl rfl⟩, rfl⟩⟩
  intro _
  refine ⟨by unfold State.WindowOk; decide, ?_⟩
  unfold State.WindowTags
  decide

theorem witness_StoredWordReadsBack :
    let s := viewing [T 4 false, T 5 false] 0 2 4 []
    s.view.valid = true ∧ s.view.base + s.view.cnt ≤ s.slots.length ∧ (1020 : Word).toNat % 4 = 0 ∧
      (1020 : Word).toNat + 4 ≤ 512 * s.view.cnt := by decide

/-- P4's start state. -/
theorem witness_FlushWritesEveryDirtyRun :
    let s := cache [T 8 true, T 9 true, T 3 false, T 10 true] [.device .ok, .device .ok]
    s.inputs = oks (runStarts s).length [] := by decide

theorem witness_FlushRunFails :
    let s := cache [T 8 true, T 9 true, T 3 false, T 10 true] [.device .ok, .device (.err 1)]
    (runStarts s)[1]? = some 3 ∧ s.inputs = oks 1 (.device (.err 1) :: []) ∧ failsWith (.device (.err 1)) (.err 1) :=
  ⟨by decide, by decide, .inl ⟨1, rfl, rfl⟩⟩

theorem witness_FlushRetryWritesEachDirtyBlockOnce :
    let s := cache [T 8 true, T 9 true, T 3 false, T 10 true] [.device .ok, .write 4 0x1C 1, .device .ok]
    1 < (runStarts s).length ∧ s.inputs = oks 1 (.write 4 0x1C 1 :: oks ((runStarts s).length - 1) []) ∧
      failsWith (.write 4 0x1C 1) .cancelled :=
  ⟨by decide, by decide, .inr ⟨⟨1, by decide, by decide, .inl rfl⟩, rfl⟩⟩

theorem witness_HeaderGate : State.reset.hdrValidated = false := by decide

theorem witness_HldLoadsHeader : (header zeroBlock [.device .ok]).inputs = .device .ok :: [] := by decide

theorem witness_HwbWritesHeader :
    let s := header zeroBlock [.device .ok]
    s.hdrValidated = true ∧ s.inputs = .device .ok :: [] := by decide

theorem witness_HeaderTransferFails :
    (let s := header zeroBlock [.device (.err 7)];
      s.hdrValidated = true ∧ s.inputs = .device (.err 7) :: [] ∧ failsWith (.device (.err 7)) (.err 7)) ∧
    (let s := header zeroBlock [.ctrlWith 1 .ok];
      s.hdrValidated = true ∧ s.inputs = .ctrlWith 1 .ok :: [] ∧ failsWith (.ctrlWith 1 .ok) .cancelled) :=
  ⟨⟨rfl, rfl, .inl ⟨7, rfl, rfl⟩⟩, rfl, rfl, .inr ⟨⟨1, by decide, by decide, .inr ⟨.ok, rfl⟩⟩, rfl⟩⟩

/-- Live counts at both ends of their range and inside it. -/
theorem witness_isLiveCount :
    isLiveCount zeroBlock 0 ∧ isLiveCount fullDirectory 64 ∧ isLiveCount (directory 1 [E0, E2]) 2 := by
  unfold isLiveCount
  decide +kernel

theorem witness_HvalChecksHeader : isLiveCount (header fullDirectory []).hdr 64 := witness_isLiveCount.2.1

/-- The header of R174's example, its function, and flips at both ends of the entries and in the version byte. -/
theorem witness_HvalChecksHeader_flips :
    let s := { State.reset with hdr := blockSetWord (directory 1 []) 508 0x5C237AAE }
    DetectsFlips s.cfg.crc ∧ blockByte s.hdr 0 = s.cfg.supportedVersion ∧ s.cfg.supportedVersion ≠ 0 ∧
      getWord s.hdr 508 = (headerSum s.cfg.crc s.hdr).toNat ∧ blockByte (flipped s.hdr 0 0) 0 = 0 ∧
      blockByte (flipped s.hdr 0 7) 0 = 129 ∧ blockByte (flipped s.hdr 4 0) 4 = 1 ∧ blockByte (flipped s.hdr 259 7) 259 = 128 :=
  ⟨cksum_detectsFlips, by decide +kernel, by decide, by decide +kernel, by decide +kernel, by decide +kernel, by decide +kernel,
    by decide +kernel⟩

theorem witness_HcntCountsLiveEntries :
    isLiveCount (header zeroBlock []).hdr 0 ∧ isLiveCount (header fullDirectory []).hdr 64 :=
  ⟨witness_isLiveCount.1, witness_isLiveCount.2.1⟩

/-- With the last live index, the first one past, the last index of the array and the first one refused. -/
theorem witness_HgetReadsEntry :
    let s := header (directory 1 [E0, E2]) []
    isLiveCount s.hdr 2 ∧ s.hdrValidated = true ∧ (1 : Byte).toNat < 2 ∧ ¬ (2 : Byte).toNat < 2 ∧ ¬ 64 ≤ (63 : Byte).toNat ∧
      64 ≤ (64 : Byte).toNat :=
  ⟨witness_isLiveCount.2.2, rfl, by decide, by decide, by decide, by decide⟩

theorem witness_HnewAllocatesLowestFreeId :
    (header fullDirectory []).hdrValidated = true ∧ isLiveCount (header fullDirectory []).hdr 64 ∧
      (header zeroBlock []).hdrValidated = true ∧ isLiveCount (header zeroBlock []).hdr 0 ∧
      { header zeroBlock [] with hdrValidated := false }.hdrValidated = false :=
  ⟨rfl, witness_isLiveCount.2.1, rfl, witness_isLiveCount.1, rfl⟩

/-- An absent id (the highest), the id of the last live entry, and the first number that is no id. -/
theorem witness_HdelRemovesFirstEntryWithId :
    let h := directory 1 [E0, E2]
    (header h []).hdrValidated = true ∧ isLiveCount h 2 ∧ (63 : Byte).toNat < 64 ∧
      (∀ j < 2, idOf (entryNat h j) ≠ (63 : Byte).toNat) ∧ idOf (entryNat h 1) = (2 : Byte).toNat ∧
      (∀ k < 1, idOf (entryNat h k) ≠ (2 : Byte).toNat) ∧ 64 ≤ (64 : Byte).toNat :=
  ⟨rfl, witness_isLiveCount.2.2, by decide, by decide +kernel, by decide +kernel, by decide +kernel, by decide⟩

theorem directory_entries : headerEntries (directory 1 [E0, E2]) = E0 :: E2 :: List.replicate 62 0 := by decide +kernel

theorem directory_live : liveEntries (directory 1 [E0, E2]) = [E0, E2] := by
  unfold liveEntries
  rw [directory_entries]
  decide +kernel

theorem directory_packed : HeaderPacked (directory 1 [E0, E2]) := by
  refine ⟨?_, ?_⟩
  · unfold usedIds; rw [directory_live]; simp; decide
  · intro j hj hj'
    have hl : 2 ≤ j := by
      unfold liveCount at hj
      rw [directory_live] at hj
      simpa using hj
    have he : headerEntry (directory 1 [E0, E2]) j = (headerEntries (directory 1 [E0, E2]))[j]?.getD 0 := by
      simp [headerEntries, show j < 64 from hj']
    rw [he, directory_entries]
    obtain ⟨q, rfl⟩ : ∃ q, j = q + 2 := ⟨j - 2, by omega⟩
    simp only [List.getElem?_cons_succ, List.getElem?_replicate]
    split <;> rfl

theorem directory_regular : HeaderRegular (directory 1 [E0, E2]) := by
  unfold HeaderRegular
  rw [directory_live]
  intro w hw
  simp only [List.mem_cons, List.not_mem_nil, or_false] at hw
  rcases hw with rfl | rfl <;> exact ⟨by decide, by decide⟩

theorem witness_DirectoryStaysPacked :
    let s := header (directory 1 [E0, E2]) []
    HeaderPacked s.hdr ∧ HeaderRegular s.hdr ∧ (∃ t, exec .hnew s = .next t) ∧ ∃ t, exec (.hdel 2) s = .next t :=
  ⟨directory_packed, directory_regular, ⟨_, rfl⟩, ⟨_, rfl⟩⟩

theorem witness_HeaderWriteThenLoadRoundTrip :
    let s := header (directory 1 [E0, E2]) [.device .ok, .device .ok]
    s.hdrValidated = true ∧ blockByte s.hdr 0 = s.cfg.supportedVersion ∧ s.cfg.supportedVersion ≠ 0 ∧
      isLiveCount s.hdr 2 ∧ s.inputs = .device .ok :: .device .ok :: [] :=
  ⟨rfl, by decide +kernel, by decide, witness_isLiveCount.2.2, rfl⟩

theorem witness_MountFollowsHeaderCommands :
    ∀ i ∈ [Instr.hld, .hclr, .hval, .nop], ∃ t, exec i State.reset = .next t := fun i _ => exec_next i _

/-- The first and the last slot, and an offset just past the last one. -/
theorem witness_RegisterMapReads :
    flushing.Inv ∧ 0 < flushing.slots.length ∧ 1 < flushing.slots.length ∧ 0x2C ≤ 0x110 ∧
      0x100 + 8 * flushing.slots.length ≤ 0x110 := ⟨witness_StepKeepsMachineInvariant.1, by decide⟩

theorem witness_RegisterLoadHasNoSideEffect :
    (waiting headerRead [.read 4 0x0C]).inputs = .read 4 0x0C :: [] := by decide

theorem witness_NewEmptyBuildsValidHeader :
    let s := cache [E, E] [.call .fsNewEmpty]
    s.seq = .idle ∧ s.busy = false ∧ s.job = none ∧ s.file = none ∧ s.cfg.supportedVersion ≠ 0 ∧ s.inputs = .call .fsNewEmpty :: [] := by
  decide

/-- Each origin; the cursor at both bounds and one past each. -/
theorem witness_SeekMovesCursorInBounds :
    ∀ w ∈ [Whence.start, .fromEnd, .current], ∀ n ∈ [(0 : Int), 9, -9, 1, -1, -10],
      let s := { cache [E, E] [.call (.fileSeek w n)] with file := some ⟨4, 8, 13, 13, false, false⟩ }
      s.seq = .idle ∧ s.busy = false ∧ s.job = none ∧ s.file = some ⟨4, 8, 13, 13, false, false⟩ ∧
        s.inputs = .call (.fileSeek w n) :: [] := by decide

end Sys2Proof.Tests
end

/-! # A late answer and a prompt one (R15, R32, R208)

A command part is given more inputs than it takes: if it ended it leaves them, if it waits it goes on with them. Said of every
part of a command this is one equation, `CommandPart.moreInputs`, and of a whole host sequence `runProg_moreInputs`. -/

namespace Sys2Proof.Machine

open Sys2Proof

/-! ### The fields no operation of the controller reads -/

/-- `s` with another sequencer state, other inputs and another state of the host sequence. -/
def State.outside (s : State) (q : Seq) (x : List Input) (j : Option Job) (h : HostResult) : State :=
  { s with seq := q, inputs := x, job := j, hostResult := h }

/-- `s` with another state of the host sequence. -/
def State.withHost (s : State) (j : Option Job) (h : HostResult) : State := s.outside s.seq s.inputs j h

/-- `s` with further inputs after its own. -/
def State.moreInputs (s : State) (ys : List Input) : State := s.outside s.seq (s.inputs ++ ys) s.job s.hostResult

@[simp] theorem outside_seq (s : State) (q : Seq) (x : List Input) (j : Option Job) (h : HostResult) :
    (s.outside q x j h).seq = q := rfl
@[simp] theorem outside_inputs (s : State) (q : Seq) (x : List Input) (j : Option Job) (h : HostResult) :
    (s.outside q x j h).inputs = x := rfl
@[simp] theorem outside_job (s : State) (q : Seq) (x : List Input) (j : Option Job) (h : HostResult) :
    (s.outside q x j h).job = j := rfl
@[simp] theorem outside_cfg (s : State) (q : Seq) (x : List Input) (j : Option Job) (h : HostResult) :
    (s.outside q x j h).cfg = s.cfg := rfl

/-- A function of the controller's own state. -/
def OfController {α : Type} (f : State → α) : Prop := ∀ s q x j h, f (s.outside q x j h) = f s

theorem OfController.withHost {α : Type} {f : State → α} (hf : OfController f) (s : State) (j : Option Job)
    (h : HostResult) : f (s.withHost j h) = f s :=
  hf _ _ _ _ _

theorem OfController.moreInputs {α : Type} {f : State → α} (hf : OfController f) (s : State) (ys : List Input) :
    f (s.moreInputs ys) = f s :=
  hf _ _ _ _ _

/-- An operation on the controller's own state: it neither reads nor changes the other fields, and it keeps the parameters
and the number of slots. -/
structure ControllerOp (op : State → State) : Prop where
  outside : ∀ s q x j h, op (s.outside q x j h) = (op s).outside q x j h
  cfg : ∀ s, (op s).cfg = s.cfg
  count : ∀ s, (op s).slots.length = s.slots.length

theorem ControllerOp.seq {op : State → State} (hop : ControllerOp op) (s : State) : (op s).seq = s.seq :=
  (congrArg State.seq (hop.outside s s.seq s.inputs s.job s.hostResult) :)

theorem ControllerOp.inputs {op : State → State} (hop : ControllerOp op) (s : State) : (op s).inputs = s.inputs :=
  (congrArg State.inputs (hop.outside s s.seq s.inputs s.job s.hostResult) :)

theorem ControllerOp.withHost {op : State → State} (hop : ControllerOp op) (s : State) (j : Option Job) (h : HostResult) :
    op (s.withHost j h) = (op s).withHost j h := by
  rw [State.withHost, hop.outside, State.withHost, hop.seq, hop.inputs]

theorem ControllerOp.moreInputs {op : State → State} (hop : ControllerOp op) (s : State) (ys : List Input) :
    op (s.moreInputs ys) = (op s).moreInputs ys := by
  have hjob : (op s).job = s.job := (congrArg State.job (hop.outside s s.seq s.inputs s.job s.hostResult) :)
  have hres : (op s).hostResult = s.hostResult :=
    (congrArg State.hostResult (hop.outside s s.seq s.inputs s.job s.hostResult) :)
  rw [State.moreInputs, hop.outside, State.moreInputs, hop.seq, hop.inputs, hjob, hres]

theorem ControllerOp.id : ControllerOp fun s => s := ⟨fun _ _ _ _ _ => rfl, fun _ => rfl, fun _ => rfl⟩

theorem ControllerOp.comp {f g : State → State} (hf : ControllerOp f) (hg : ControllerOp g) :
    ControllerOp fun s => f (g s) where
  outside s q x j h := by rw [hg.outside, hf.outside]
  cfg s := (hf.cfg _).trans (hg.cfg _)
  count s := (hf.count _).trans (hg.count _)

theorem invalidateSlot_controllerOp (j : Nat) : ControllerOp fun s => s.invalidateSlot j :=
  ⟨fun _ _ _ _ _ => rfl, fun _ => rfl, fun _ => setSlot_length _ _ _⟩

theorem cleanSlot_controllerOp (j : Nat) : ControllerOp fun s => s.cleanSlot j :=
  ⟨fun _ _ _ _ _ => rfl, fun _ => rfl, fun _ => setSlot_length _ _ _⟩

theorem filled_controllerOp (j : Nat) : ControllerOp fun s => s.filled j :=
  ⟨fun _ _ _ _ _ => rfl, fun _ => rfl, fun _ => setSlot_length _ _ _⟩

theorem cleanRun_controllerOp (r i : Nat) : ControllerOp fun s => s.cleanRun i r := by
  induction r generalizing i with
  | zero => exact .id
  | succ r ih => exact (ih (i + 1)).comp (cleanSlot_controllerOp i)

/-! ### The device transaction and the end of a wait -/

theorem fillSlots_outside (s : State) (i : Nat) (bs : List Block) (q : Seq) (x : List Input) (j : Option Job)
    (h : HostResult) : (s.outside q x j h).fillSlots i bs = (s.fillSlots i bs).outside q x j h := by
  induction bs generalizing s i with
  | nil => rfl
  | cons b bs ih => exact ih (s.setSlotData i b) (i + 1)

theorem deliver_outside (s : State) (r : Request) (bs : List Block) (q : Seq) (x : List Input) (j : Option Job)
    (h : HostResult) : (s.outside q x j h).deliver r bs = (s.deliver r bs).outside q x j h := by
  unfold State.deliver
  split
  · exact fillSlots_outside _ _ _ _ _ _ _
  · rfl

theorem transfer_outside (s : State) (r : Request) (q : Seq) (x : List Input) (j : Option Job) (h : HostResult) :
    (s.outside q x j h).transfer r = (s.transfer r).outside q x j h := by
  unfold State.transfer
  split
  · exact deliver_outside _ _ _ _ _ _ _
  · rfl

theorem spoilBuffer_outside (s : State) (r : Request) (q : Seq) (x : List Input) (j : Option Job) (h : HostResult) :
    (s.outside q x j h).spoilBuffer r = (s.spoilBuffer r).outside q x j h := by
  unfold State.spoilBuffer
  split
  · exact congrArg (fun t : State => { t with draws := s.draws + r.cnt }) (deliver_outside _ _ _ _ _ _ _)
  · rfl

theorem spoilMedium_outside (s : State) (r : Request) (q : Seq) (x : List Input) (j : Option Job) (h : HostResult) :
    (s.outside q x j h).spoilMedium r = (s.spoilMedium r).outside q x j h := by
  unfold State.spoilMedium
  split <;> rfl

theorem logged_outside (s : State) (r : Request) (rep : Reply) (q : Seq) (x : List Input) (j : Option Job)
    (h : HostResult) : (s.outside q x j h).logged r rep = (s.logged r rep).outside q x j h := rfl

theorem withdraw_outside (s : State) (r : Request) (q : Seq) (x : List Input) (j : Option Job) (h : HostResult) :
    (s.outside q x j h).withdraw r = (s.withdraw r).outside q x j h := by
  simp only [State.withdraw, logged_outside, spoilBuffer_outside, spoilMedium_outside]

theorem answer_outside (s : State) (r : Request) (a : DevAnswer) (q : Seq) (x : List Input) (j : Option Job)
    (h : HostResult) : (s.outside q x j h).answer r a = ((s.answer r a).1, (s.answer r a).2.outside q x j h) := by
  cases a with
  | ok => simp only [State.answer, logged_outside, transfer_outside]
  | err e => simp only [State.answer, logged_outside, spoilBuffer_outside, spoilMedium_outside]
  | ideal =>
    simp only [State.answer, logged_outside, transfer_outside, spoilBuffer_outside, outside_cfg]
    split <;> rfl

/-- How a wait ends depends on the next input and on the controller's own state alone (R15). -/
theorem reply_outside {s : State} {y : Input} {rest : List Input} (hs : s.inputs = y :: rest) (r : Request) (q : Seq)
    (x : List Input) (j : Option Job) (h : HostResult) :
    (s.outside q (y :: x) j h).reply r = (s.reply r).map fun p => (p.1, p.2.outside q x j h) := by
  have hans (a : DevAnswer) := answer_outside { s with inputs := rest } r a q x j h
  have hwd := withdraw_outside { s with inputs := rest } r q x j h
  simp only [State.outside] at hans hwd
  cases y with
  | device a => simp [State.reply, State.outside, hs, hans]
  | write width off v =>
    simp only [State.reply, State.outside, hs, hwd]
    split <;> rfl
  | ctrlWith v a =>
    simp only [State.reply, State.outside, hs, hans, hwd]
    split
    · rfl
    · split <;> rfl
  | read width off => simp [State.reply, State.outside, hs]
  | hardReset => simp [State.reply, State.outside, hs]
  | call q => simp [State.reply, State.outside, hs]

/-- The end of a wait takes one input and leaves the sequencer and the host's fields. -/
theorem reply_takes {s t : State} {r : Request} {rep : Reply} (hr : s.reply r = some (rep, t)) :
    ∃ y rest, s.inputs = y :: rest ∧ t = t.outside s.seq rest s.job s.hostResult := by
  obtain ⟨y, rest, hs, -⟩ := reply_cases hr
  have hmap := reply_outside hs r s.seq rest s.job s.hostResult
  rw [← hs, show s.outside s.seq s.inputs s.job s.hostResult = s from rfl, hr] at hmap
  exact ⟨y, rest, hs, congrArg Prod.snd (Option.some.inj hmap)⟩

/-- How a wait ends does not depend on the sequencer's state and the host sequence. -/
theorem reply_outside_self (s : State) (r : Request) (q : Seq) (j : Option Job) (h : HostResult) :
    (s.outside q s.inputs j h).reply r = (s.reply r).map fun p => (p.1, p.2.outside q p.2.inputs j h) := by
  cases hs : s.inputs with
  | nil => simp [State.reply, hs]
  | cons y rest =>
    rw [reply_outside hs]
    cases hr : s.reply r with
    | none => rfl
    | some p =>
      obtain ⟨y', rest', hs', ht⟩ := reply_takes hr
      obtain ⟨-, rfl⟩ := List.cons.inj (hs.symm.trans hs')
      rw [Option.map_some, Option.map_some, ht]
      rfl

theorem reply_withHost (s : State) (r : Request) (j : Option Job) (h : HostResult) :
    (s.withHost j h).reply r = (s.reply r).map fun p => (p.1, p.2.withHost j h) := by
  rw [State.withHost, reply_outside_self]
  cases hr : s.reply r with
  | none => rfl
  | some p => rw [Option.map_some, Option.map_some, State.withHost, (reply_same hr).seq]

/-- A wait that ends, ends in the same way if more inputs follow. -/
theorem reply_moreInputs {s t : State} {r : Request} {rep : Reply} (hr : s.reply r = some (rep, t)) (ys : List Input) :
    (s.moreInputs ys).reply r = some (rep, t.moreInputs ys) := by
  obtain ⟨y, rest, hs, ht⟩ := reply_takes hr
  rw [State.moreInputs, hs, List.cons_append, reply_outside hs, hr, Option.map_some, ht]
  rfl

/-! ### Going on -/

/-- A state goes on if it waits and its next input ends the wait (R15, R208). -/
def State.goOn (s : State) : State :=
  match s.seq with
  | .wait r =>
    match s.reply r with
    | some (rep, t) => settle rep { t with seq := .run } (resume r.cont)
    | none => s
  | _ => s

theorem goOn_of_not_wait {s : State} (hs : ∀ r, s.seq ≠ .wait r) : s.goOn = s := by
  unfold State.goOn
  split
  · exact absurd ‹_› (hs _)
  · rfl

theorem goOn_of_reply_none {s : State} {r : Request} (hs : s.seq = .wait r) (hr : s.reply r = none) : s.goOn = s := by
  simp only [State.goOn, hs, hr]

theorem goOn_of_reply {s t : State} {r : Request} {rep : Reply} (hs : s.seq = .wait r) (hr : s.reply r = some (rep, t)) :
    s.goOn = settle rep { t with seq := .run } (resume r.cont) := by
  simp only [State.goOn, hs, hr]

/-- A suspension point is a wait that goes on at once if it can (log entry 6). -/
theorem await_eq_goOn {s : State} (hs : s.seq = .run) (r : Request) :
    s.await r (resume r.cont) = State.goOn { s with seq := .wait r } := by
  have hw : State.reply { s with seq := .wait r } r = _ := reply_outside_self s r (.wait r) s.job s.hostResult
  cases hr : s.reply r with
  | none => rw [State.await, hr, goOn_of_reply_none rfl (hw.trans (by rw [hr]; rfl))]
  | some p =>
    obtain ⟨rep, t⟩ := p
    obtain ⟨y, rest, -, ht⟩ := reply_takes hr
    rw [State.await, hr, goOn_of_reply rfl (hw.trans (by rw [hr]; rfl)), ← hs]
    exact congrArg (settle rep · (resume r.cont)) (ht.trans (by rw [ht]; rfl))

/-- The step that takes an answer to a waiting command: the command goes on, and then the host sequence (R15, R101). -/
theorem step_answer {s : State} {r : Request} (hs : s.seq = .wait r) (hx : s.inputs = []) (a : DevAnswer)
    (rest : List Input) : step { s with inputs := .device a :: rest } =
      (s.moreInputs (.device a :: rest)).goOn.continueSequence := by
  have hmore : s.moreInputs (.device a :: rest) = { s with inputs := .device a :: rest } := by
    rw [State.moreInputs, hx]
    rfl
  rw [← hmore]
  rcases step_cases (s.moreInputs (.device a :: rest)) with ⟨r', rep, t, hs', hr, hstep⟩ | ⟨hnone, -⟩
  · rw [hstep, goOn_of_reply hs' hr]
  · have hanswer := reply_device (r := r) (congrArg State.inputs hmore)
    rw [hnone r hs] at hanswer
    cases hanswer

/-! ### Parts of commands -/

/-- A command has ended or waits for the device. -/
def State.EndedOrWaits (s : State) : Prop := (∃ r, s.seq = .wait r) ∨ s.seq = .idle ∧ s.busy = false

theorem State.EndedOrWaits.ended {s : State} (hs : s.EndedOrWaits) (hw : ∀ r, s.seq ≠ .wait r) :
    s.seq = .idle ∧ s.busy = false :=
  hs.resolve_left fun ⟨r, hr⟩ => hw r hr

/-- What every part of a command from some point to its end does: the host sequence that waits for it makes no difference to
it, and with more inputs it goes on from where it stopped. -/
structure CommandPart (k : State → State) : Prop where
  withHost : ∀ s j h, k (s.withHost j h) = (k s).withHost j h
  moreInputs : ∀ s ys, s.seq = .run → k (s.moreInputs ys) = ((k s).moreInputs ys).goOn
  ends : ∀ s, (k s).EndedOrWaits
  cfg : ∀ s, (k s).cfg = s.cfg
  count : ∀ s, (k s).slots.length = s.slots.length

theorem CommandPart.job {k : State → State} (hk : CommandPart k) (s : State) : (k s).job = s.job :=
  (congrArg State.job (hk.withHost s s.job s.hostResult) :)

/-- The end of a command: what it changes in the controller's own state, then its report (R280). Here and in the rules below,
that a function reads the controller's own state alone holds by unfolding it, unless a caller says otherwise. -/
theorem CommandPart.finish {op : State → State} {e : State → Err} {r0 r1 : State → Word}
    (hop : ControllerOp op := by exact ⟨fun _ _ _ _ _ => rfl, fun _ => rfl, fun _ => rfl⟩)
    (he : OfController e := by exact fun _ _ _ _ _ => rfl) (h0 : OfController r0 := by exact fun _ _ _ _ _ => rfl)
    (h1 : OfController r1 := by exact fun _ _ _ _ _ => rfl) :
    CommandPart fun s => (op s).finish (e s) (r0 s) (r1 s) where
  withHost s j h := by
    rw [hop.withHost, he.withHost, h0.withHost, h1.withHost]
    rfl
  moreInputs s ys _ := by
    rw [hop.moreInputs, he.moreInputs, h0.moreInputs, h1.moreInputs]
    rfl
  ends s := .inr ⟨rfl, rfl⟩
  cfg := hop.cfg
  count := hop.count

theorem CommandPart.comp {k op : State → State} (hk : CommandPart k) (hop : ControllerOp op) :
    CommandPart fun s => k (op s) where
  withHost s j h := by rw [hop.withHost, hk.withHost]
  moreInputs s ys hs := by rw [hop.moreInputs, hk.moreInputs _ _ ((hop.seq s).trans hs)]
  ends s := hk.ends _
  cfg s := (hk.cfg _).trans (hop.cfg s)
  count s := (hk.count _).trans (hop.count s)

/-- A part whose parameter is computed from the controller's own state. -/
theorem CommandPart.param {α : Type} {k : α → State → State} (hk : ∀ a, CommandPart (k a)) (f : State → α)
    (hf : OfController f := by exact fun _ _ _ _ _ => rfl) : CommandPart fun s => k (f s) s where
  withHost s j h := by rw [hf.withHost, (hk (f s)).withHost]
  moreInputs s ys hs := by rw [hf.moreInputs, (hk (f s)).moreInputs s ys hs]
  ends s := (hk (f s)).ends s
  cfg s := (hk (f s)).cfg s
  count s := (hk (f s)).count s

theorem CommandPart.ite {c : State → Prop} [∀ s, Decidable (c s)] {k l : State → State} (hk : CommandPart k)
    (hl : CommandPart l) (hc : OfController c := by exact fun _ _ _ _ _ => rfl) :
    CommandPart fun s => if c s then k s else l s := by
  have hbranch (b : Bool) : CommandPart fun s => if b then k s else l s := by
    cases b
    · exact hl
    · exact hk
  have hparam := CommandPart.param hbranch (fun s => decide (c s)) fun s q x j h => by simp only [hc s q x j h]
  simpa only [decide_eq_true_eq] using hparam

/-- A suspension point whose continuation is a part of a command. -/
theorem CommandPart.await {r : Request} (hk : CommandPart (resume r.cont)) :
    CommandPart fun s => s.await r (resume r.cont) where
  withHost s j h := by
    simp only [State.await, reply_withHost]
    cases hr : s.reply r with
    | none => rfl
    | some p =>
      obtain ⟨rep, t⟩ := p
      cases rep with
      | ok => exact hk.withHost t j h
      | err e => rfl
      | cancelled => rfl
  moreInputs s ys hs := by
    cases hr : s.reply r with
    | none =>
      rw [await_eq_goOn (s := s.moreInputs ys) hs, State.await, hr]
      rfl
    | some p =>
      obtain ⟨rep, t⟩ := p
      simp only [State.await, reply_moreInputs hr, hr]
      cases rep with
      | ok => exact hk.moreInputs t ys ((reply_same hr).seq.trans hs)
      | err e => rfl
      | cancelled => rfl
  ends s := by
    rcases await_cases s r (resume r.cont) with ⟨-, h⟩ | ⟨t, -, h⟩ | ⟨t, e, -, h⟩ | ⟨t, -, h⟩ <;> rw [h]
    · exact .inl ⟨r, rfl⟩
    · exact hk.ends t
    · exact .inr ⟨rfl, rfl⟩
    · exact .inr ⟨rfl, rfl⟩
  cfg s := by
    rcases await_cases s r (resume r.cont) with ⟨-, h⟩ | ⟨t, hr, h⟩ | ⟨t, e, hr, h⟩ | ⟨t, hr, h⟩ <;> rw [h]
    · exact (hk.cfg t).trans (reply_same hr).cfg
    · exact (reply_same hr).cfg
    · exact (reply_same hr).cfg
  count s := by
    rcases await_cases s r (resume r.cont) with ⟨-, h⟩ | ⟨t, hr, h⟩ | ⟨t, e, hr, h⟩ | ⟨t, hr, h⟩ <;> rw [h]
    · exact (hk.count t).trans (reply_same hr).count
    · exact (reply_same hr).count
    · exact (reply_same hr).count

/-- A suspension point whose request is made from the controller's own state. -/
theorem CommandPart.request {req : State → Request} (hk : ∀ s, CommandPart (resume (req s).cont))
    (hreq : OfController req := by exact fun _ _ _ _ _ => rfl) :
    CommandPart fun s => s.await (req s) (resume (req s).cont) where
  withHost s j h := by rw [hreq.withHost, (hk s).await.withHost]
  moreInputs s ys hs := by rw [hreq.moreInputs, (hk s).await.moreInputs s ys hs]
  ends s := (hk s).await.ends s
  cfg s := (hk s).await.cfg s
  count s := (hk s).await.count s

/-! ### The loops and their continuations -/

/-- `Construct` from any slot on (R121). -/
theorem constructLoop_part (base cnt : Nat) (start : Word) (left j : Nat) :
    CommandPart (constructLoop base cnt start left j) := by
  induction left generalizing j with
  | zero => exact .finish
  | succ left ih =>
    have hresume : CommandPart (resume (.select base cnt start j left)) :=
      (ih (j + 1)).comp ((invalidateSlot_controllerOp j).comp (cleanSlot_controllerOp j))
    rw [funext (constructLoop_succ base cnt start left j)]
    exact .ite (.ite (.request fun _ => hresume) ((ih (j + 1)).comp (invalidateSlot_controllerOp j))) (ih (j + 1))

/-- `VRD` from the emptying of a slot on, if it is a part from the next slot on (R140). -/
theorem refillFrom_part {left j : Nat} (hnext : CommandPart (fillLoop left (j + 1))) : CommandPart (refillFrom left j) := by
  have hresume : CommandPart (resume (.fillRead j left)) := hnext.comp (filled_controllerOp j)
  have hrequest : CommandPart fun s => s.await (s.fillOf j (.fillRead j left)) (resume (.fillRead j left)) :=
    .request (req := fun s => s.fillOf j (.fillRead j left)) fun _ => hresume
  exact hrequest.comp (invalidateSlot_controllerOp j)

/-- `VRD` from any slot on (R140). -/
theorem fillLoop_part (left j : Nat) : CommandPart (fillLoop left j) := by
  induction left generalizing j with
  | zero => exact .finish
  | succ left ih =>
    have hresume : CommandPart (resume (.fillWrite j left)) :=
      (refillFrom_part (ih (j + 1))).comp (cleanSlot_controllerOp j)
    rw [funext (fillLoop_succ left j)]
    exact .ite (ih (j + 1)) (.ite (.request fun _ => hresume) (refillFrom_part (ih (j + 1))))

/-- `FLUSH` from any slot on (R160). -/
theorem flushLoop_part (fuel i runs blocks : Nat) : CommandPart (flushLoop fuel i runs blocks) := by
  induction fuel generalizing i runs blocks with
  | zero => exact .finish
  | succ fuel ih =>
    have hresume (r : Nat) : CommandPart (resume (.flush i r fuel runs blocks)) :=
      (ih (i + r) (runs + 1) (blocks + r)).comp (cleanRun_controllerOp r i)
    rw [funext (flushLoop_succ fuel i runs blocks)]
    exact .ite (.ite (.request fun s => hresume (s.runLength i)) (ih (i + 1) runs blocks)) .finish

/-- Where a suspended command goes on is a part of the command (R32). -/
theorem resume_part (c : Cont) : CommandPart (resume c) := by
  cases c with
  | select base cnt start j left =>
    exact (constructLoop_part base cnt start left (j + 1)).comp
      ((invalidateSlot_controllerOp j).comp (cleanSlot_controllerOp j))
  | fillWrite j left => exact (refillFrom_part (fillLoop_part left (j + 1))).comp (cleanSlot_controllerOp j)
  | fillRead j left => exact (fillLoop_part left (j + 1)).comp (filled_controllerOp j)
  | flush i r fuel runs blocks =>
    exact (flushLoop_part fuel (i + r) (runs + 1) (blocks + r)).comp (cleanRun_controllerOp r i)
  | headerLoad => exact .finish
  | headerStore c => exact .finish

/-! ### The commands -/

theorem construct_part (base cnt : Nat) (start : Word) : CommandPart fun s => s.construct base cnt start :=
  (constructLoop_part base cnt start cnt base).comp (op := fun s => { s with view := { s.view with valid := false } })
    ⟨fun _ _ _ _ _ => rfl, fun _ => rfl, fun _ => rfl⟩

theorem withView_part {k : State → State} (hk : CommandPart k) : CommandPart fun s => s.withView k := .ite hk .finish

theorem withHeader_part {k : State → State} (hk : CommandPart k) : CommandPart fun s => s.withHeader k := .ite hk .finish

theorem markSlots_controllerOp (qs : List Nat) : ControllerOp fun s => s.markSlots qs := by
  induction qs with
  | nil => exact .id
  | cons q qs ih =>
    exact ih.comp (g := fun s => s.markSlot q) ⟨fun _ _ _ _ _ => rfl, fun _ => rfl, fun _ => setSlot_length _ _ _⟩

/-- `VMOD` on the view slots `qs` (R141). -/
theorem markSlots_part (qs : List Nat) : CommandPart fun s => (s.markSlots qs).ret (BitVec.ofNat 32 qs.length) 0 :=
  .finish (markSlots_controllerOp qs)

theorem setViewByte_controllerOp (off : Nat) (v : Byte) : ControllerOp fun s => s.setViewByte off v :=
  ⟨fun _ _ _ _ _ => rfl, fun _ => rfl, fun _ => setSlot_length _ _ _⟩

theorem setViewWord_controllerOp (off : Nat) (v : Word) : ControllerOp fun s => s.setViewWord off v :=
  ⟨fun _ _ _ _ _ => rfl, fun _ => rfl, fun _ => setSlot_length _ _ _⟩

/-- `FLUSH` of a cache of `n` slots (R160). -/
theorem flush_part (n : Nat) : CommandPart fun s => flushLoop n 0 0 0 { s with view := { s.view with valid := false } } :=
  (flushLoop_part n 0 0 0).comp (op := fun s => { s with view := { s.view with valid := false } })
    ⟨fun _ _ _ _ _ => rfl, fun _ => rfl, fun _ => rfl⟩

theorem execHld_part : CommandPart fun s =>
    State.await { s with hdrValidated := false, mounted := false } headerRead (resume headerRead.cont) :=
  (resume_part headerRead.cont).await.comp (op := fun s => { s with hdrValidated := false, mounted := false })
    ⟨fun _ _ _ _ _ => rfl, fun _ => rfl, fun _ => rfl⟩

/-- `HWB` with checksum `c` (R179). -/
theorem headerWrite_part (c : Word) : CommandPart fun s =>
    State.await { s with hdr := withChecksum s.cfg.crc s.hdr } (headerWrite c) (resume (headerWrite c).cont) :=
  (resume_part (headerWrite c).cont).await.comp (op := fun s => { s with hdr := withChecksum s.cfg.crc s.hdr })
    ⟨fun _ _ _ _ _ => rfl, fun _ => rfl, fun _ => rfl⟩

/-- `HDEL` when the search for the id has answered `found` (R183). -/
def removeFound (found : Option Nat) (s : State) : State :=
  match found with
  | none => s.ret 0 (BitVec.ofNat 32 (liveCount s.hdr))
  | some j => State.ret { s with hdr := removeEntry s.hdr j } 1 (BitVec.ofNat 32 (liveCount (removeEntry s.hdr j)))

theorem removeFound_part (found : Option Nat) : CommandPart (removeFound found) := by
  cases found <;> exact .finish

/-- Every command is a part of itself. -/
theorem exec_part (i : Instr) : ∃ k, CommandPart k ∧ ∀ s, exec i s = .next (k s) := by
  cases i with
  | nop => exact ⟨fun s => s.ret 0 0, .finish, fun _ => rfl⟩
  | sel start =>
    exact ⟨_, .param (fun plan => construct_part plan.1 plan.2 start) fun s => s.selPlan start, fun _ => rfl⟩
  | selx len start =>
    exact ⟨_, .ite (.param (fun base => construct_part base len.toNat start) fun s => s.selxBase len.toNat start) .finish,
      fun _ => rfl⟩
  | vrd => exact ⟨_, withView_part (.param (fun v => fillLoop_part v.cnt v.base) fun s => s.view), fun _ => rfl⟩
  | vmod off len =>
    exact ⟨_, withView_part (.ite (.param markSlots_part fun s => markedSlots off len s.view.cnt) .finish), fun _ => rfl⟩
  | flush => exact ⟨_, .param flush_part fun s => s.slots.length, fun _ => rfl⟩
  | vlb off => exact ⟨_, withView_part (.ite .finish .finish), fun _ => rfl⟩
  | vsb off val =>
    exact ⟨_, withView_part (.ite (.finish (setViewByte_controllerOp _ _)) .finish), fun _ => rfl⟩
  | vlw off => exact ⟨_, withView_part (.ite .finish .finish), fun _ => rfl⟩
  | vsw off val =>
    exact ⟨_, withView_part (.ite (.finish (setViewWord_controllerOp _ _)) .finish), fun _ => rfl⟩
  | hld => exact ⟨_, execHld_part, fun _ => rfl⟩
  | hval => exact ⟨_, .ite .finish (.ite .finish (.ite .finish .finish)), fun _ => rfl⟩
  | hinit => exact ⟨_, .finish, fun _ => rfl⟩
  | hclr => exact ⟨_, .finish, fun _ => rfl⟩
  | hsum => exact ⟨_, .finish, fun _ => rfl⟩
  | hwb => exact ⟨_, withHeader_part (.param headerWrite_part fun s => cksum s.cfg.crc s.hdr), fun _ => rfl⟩
  | hcnt => exact ⟨_, withHeader_part .finish, fun _ => rfl⟩
  | hget idx => exact ⟨_, withHeader_part (.ite (.ite .finish .finish) .finish), fun _ => rfl⟩
  | hnew => exact ⟨_, withHeader_part (.ite .finish .finish), fun _ => rfl⟩
  | hdel id =>
    exact ⟨_, withHeader_part (.ite (.param removeFound_part fun s =>
      (liveEntries s.hdr).findIdx? fun w => entryId w = id.toNat) .finish), fun _ => rfl⟩
  | hlw off => exact ⟨_, .ite .finish .finish, fun _ => rfl⟩
  | hsw off val => exact ⟨_, .ite .finish .finish, fun _ => rfl⟩

/-- Whether a state goes on, and how, does not depend on the host sequence. -/
theorem goOn_withHost (s : State) (j : Option Job) (h : HostResult) : (s.withHost j h).goOn = s.goOn.withHost j h := by
  cases hs : s.seq with
  | idle => simp only [State.goOn, State.withHost, outside_seq, hs]
  | run => simp only [State.goOn, State.withHost, outside_seq, hs]
  | wait r =>
    have hw : (s.withHost j h).seq = .wait r := hs
    cases hr : s.reply r with
    | none => rw [goOn_of_reply_none hs hr, goOn_of_reply_none hw (by rw [reply_withHost, hr]; rfl)]
    | some p =>
      obtain ⟨rep, t⟩ := p
      rw [goOn_of_reply hs hr, goOn_of_reply hw (by rw [reply_withHost, hr]; rfl)]
      cases rep with
      | ok => exact (resume_part r.cont).withHost { t with seq := .run } j h
      | err e => rfl
      | cancelled => rfl

/-! ### Host sequences -/

/-- A launched descriptor runs a part of a command, legal or not (R95, R280). -/
theorem runCommand_part (d : Descriptor) :
    ∃ k, CommandPart k ∧ ∀ s : State, s.descriptor = d → s.runCommand = .next (k s) := by
  cases hd : decode d with
  | ok i =>
    obtain ⟨k, hk, hexec⟩ := exec_part i
    exact ⟨k, hk, fun s hs => by simp only [State.runCommand, hs, hd, hexec]⟩
  | error e =>
    refine ⟨fun s => s.finish .illegalCommand s.cmd0 0, .finish, fun s hs => ?_⟩
    simp only [State.runCommand, hs, hd]

/-- Where a command that a host issues begins, its operands stored and the launch done (R41). -/
def State.launchOf (s : State) (i : Instr) : State :=
  State.launch { s with cmd1 := (encode i).cmd1, cmd2 := (encode i).cmd2 } (encode i).cmd0

/-- What a host issues while the controller is not busy is a command, whatever the inputs and the host sequence (R41). -/
theorem issueCommand_part (i : Instr) :
    ∃ k, CommandPart k ∧ ∀ s : State, s.busy = false → s.issueCommand i = .next (k (s.launchOf i)) := by
  obtain ⟨k, hk, hrun⟩ := runCommand_part (encode i)
  exact ⟨k, hk, fun s hs => (issueCommand_idle hs i).trans (hrun _ rfl)⟩

/-- What a host sequence needs to know of a command it has issued. -/
structure Issued (s : State) (i : Instr) (u : State) : Prop where
  issue : s.issueCommand i = .next u
  withHost : ∀ j h, (s.withHost j h).issueCommand i = .next (u.withHost j h)
  moreInputs : ∀ ys, (s.moreInputs ys).issueCommand i = .next (u.moreInputs ys).goOn
  ends : u.EndedOrWaits
  cfg : u.cfg = s.cfg
  count : u.slots.length = s.slots.length

theorem exists_issued {s : State} (hs : s.busy = false) (i : Instr) : ∃ u, Issued s i u := by
  obtain ⟨k, hk, hissue⟩ := issueCommand_part i
  refine ⟨k (s.launchOf i), ?_⟩
  exact
    { issue := hissue s hs
      withHost := fun j h => (hissue (s.withHost j h) hs).trans (congrArg _ (hk.withHost (s.launchOf i) j h))
      moreInputs := fun ys => (hissue (s.moreInputs ys) hs).trans (congrArg _ (hk.moreInputs (s.launchOf i) ys rfl))
      ends := hk.ends _
      cfg := hk.cfg _
      count := hk.count _ }

@[simp] theorem afterStore_next (s : State) (k : State → Host.Outcome State Fault Refusal) :
    afterStore (.next s) k = k s := rfl

theorem commandEnd_wait {s : State} {r : Request} (hs : s.seq = .wait r) (q : HostSeq)
    (w : Host.Outcome State Fault Refusal) (k : Word × Word → Host.Outcome State Fault Refusal) :
    s.commandEnd q w k = w := by
  simp only [State.commandEnd, hs]

theorem commandEnd_ok {s : State} (hs : ∀ r, s.seq ≠ .wait r) (he : s.err = .ok) (q : HostSeq)
    (w : Host.Outcome State Fault Refusal) (k : Word × Word → Host.Outcome State Fault Refusal) :
    s.commandEnd q w k = k (s.res0, s.res1) := by
  rcases commandEnd_cases s q w k with ⟨⟨r, hr⟩, -⟩ | ⟨-, -, h⟩ | ⟨-, hne, -⟩
  · exact absurd hr (hs r)
  · exact h
  · exact absurd he hne

theorem commandEnd_error {s : State} (hs : ∀ r, s.seq ≠ .wait r) (he : s.err ≠ .ok) (q : HostSeq)
    (w : Host.Outcome State Fault Refusal) (k : Word × Word → Host.Outcome State Fault Refusal) :
    s.commandEnd q w k = .next (s.hostDone (seqError q s.err)) := by
  rcases commandEnd_cases s q w k with ⟨⟨r, hr⟩, -⟩ | ⟨-, hok, -⟩ | ⟨-, -, h⟩
  · exact absurd hr (hs r)
  · exact absurd hok he
  · exact h

/-- What is left of a host sequence overwrites what is noted of it. -/
theorem runProg_withHost {q : HostSeq} {file : Option File} (p : Prog HostResult) :
    ∀ (results : List (Word × Word)) (s : State) (j : Option Job) (h : HostResult), s.busy = false →
      runProg q file p results (s.withHost j h) = runProg q file p results s := by
  induction p with
  | ret r => intros; rfl
  | fail e => intros; rfl
  | refuse r => intros; rfl
  | abort f => intros; rfl
  | command i k ih =>
    intro results s j h hs
    obtain ⟨u, hu⟩ := exists_issued hs i
    simp only [runProg, hu.issue, hu.withHost, afterStore_next]
    by_cases hw : ∃ r, u.seq = .wait r
    · obtain ⟨r, hr⟩ := hw
      rw [commandEnd_wait (s := u.withHost j h) hr, commandEnd_wait hr]
      rfl
    · have hw' := not_exists.mp hw
      by_cases he : u.err = .ok
      · rw [commandEnd_ok (s := u.withHost j h) hw' he, commandEnd_ok hw' he]
        exact ih _ _ _ _ _ (hu.ends.ended hw').2
      · rw [commandEnd_error (s := u.withHost j h) hw' he, commandEnd_error hw' he]
        rfl
  | keep f p ih => exact fun results s => ih results (s.setFile f)
  | unmount p ih => exact fun results s => ih results s.dispose

/-- A suspended host sequence whose command has gone on, to its end or to another wait, goes on exactly as one that finds the
command so when it has issued it (R101; log entry 12). -/
theorem continueSequence_hostWaits {q : HostSeq} {file : Option File} {results : List (Word × Word)} {v : State}
    {k : Word × Word → Prog HostResult} (hv : v.EndedOrWaits)
    (hk : ∀ r, continuation ⟨q, file, results⟩ v r = k r) :
    (v.hostWaits ⟨q, file, results⟩).continueSequence =
      v.commandEnd q (.next (v.hostWaits ⟨q, file, results⟩)) fun r => runProg q file (k r) (results ++ [r]) v := by
  have hcontinue : (v.hostWaits ⟨q, file, results⟩).continueSequence =
      (v.hostWaits ⟨q, file, results⟩).commandEnd q (.next (v.hostWaits ⟨q, file, results⟩)) fun r =>
        runProg q file (continuation ⟨q, file, results⟩ v r) (results ++ [r]) (v.hostWaits ⟨q, file, results⟩) := rfl
  rw [hcontinue]
  by_cases hw : ∃ r, v.seq = .wait r
  · obtain ⟨r, hr⟩ := hw
    rw [commandEnd_wait (s := v.hostWaits _) hr, commandEnd_wait hr]
  · have hw' := not_exists.mp hw
    by_cases he : v.err = .ok
    · rw [commandEnd_ok (s := v.hostWaits _) hw' he, commandEnd_ok hw' he, hk]
      exact runProg_withHost _ _ _ _ _ (hv.ended hw').2
    · rw [commandEnd_error (s := v.hostWaits _) hw' he, commandEnd_error hw' he]
      rfl

/-- A host sequence that has ended does not go on. -/
theorem hostDone_goesOn {s : State} (hs : ∀ r, s.seq ≠ .wait r) (res : HostResult) (ys : List Input) :
    ((s.hostDone res).moreInputs ys).goOn.continueSequence = .next ((s.moreInputs ys).hostDone res) := by
  rw [goOn_of_not_wait (s := (s.hostDone res).moreInputs ys) hs]
  rfl

/-- With more inputs a host sequence goes on from where it stopped: `p` is what is left of it after commands with these
results. -/
theorem runProg_moreInputs {q : HostSeq} {file : Option File} (ys : List Input) (p : Prog HostResult) :
    ∀ (results : List (Word × Word)) (s : State), s.seq = .idle → s.busy = false →
      (∀ r, (program q file s.slots.length s.cfg.debugChecks).after (results ++ [r]) = p.after [r]) →
      runProg q file p results (s.moreInputs ys) =
        afterStore (runProg q file p results s) fun t => (t.moreInputs ys).goOn.continueSequence := by
  induction p with
  | ret r =>
    intro _ s hs _ _
    exact (hostDone_goesOn (by simp [hs]) _ ys).symm
  | fail e =>
    intro _ s hs _ _
    exact (hostDone_goesOn (by simp [hs]) _ ys).symm
  | refuse r => intros; rfl
  | abort f => intros; rfl
  | command i k ih =>
    intro results s _ hbusy hleft
    obtain ⟨u, hu⟩ := exists_issued hbusy i
    have hk (r : Word × Word) : (program q file s.slots.length s.cfg.debugChecks).after (results ++ [r]) = k r :=
      (hleft r).trans (after_nil (k r))
    simp only [runProg, hu.issue, hu.moreInputs, afterStore_next]
    by_cases hw : ∃ r, u.seq = .wait r
    · obtain ⟨r, hr⟩ := hw
      obtain ⟨v, hv⟩ := exists_issued (s := s.moreInputs ys) hbusy i
      obtain rfl : (u.moreInputs ys).goOn = v := Host.Outcome.next.inj ((hu.moreInputs ys).symm.trans hv.issue)
      have hgoOn : ((u.hostWaits ⟨q, file, results⟩).moreInputs ys).goOn =
          (u.moreInputs ys).goOn.hostWaits ⟨q, file, results⟩ := goOn_withHost (u.moreInputs ys) _ _
      rw [commandEnd_wait hr, afterStore_next, hgoOn]
      refine (continueSequence_hostWaits hv.ends fun r => ?_).symm
      rw [continuation, hv.count, hv.cfg]
      exact hk r
    · have hw' := not_exists.mp hw
      obtain ⟨hidle, hfree⟩ := hu.ends.ended hw'
      rw [goOn_of_not_wait (s := u.moreInputs ys) hw']
      by_cases he : u.err = .ok
      · rw [commandEnd_ok (s := u.moreInputs ys) hw' he, commandEnd_ok hw' he]
        refine ih _ _ _ hidle hfree fun r => ?_
        rw [hu.count, hu.cfg, after_append, hk]
      · rw [commandEnd_error (s := u.moreInputs ys) hw' he, commandEnd_error hw' he, afterStore_next, hostDone_goesOn hw']
        rfl
  | keep f p ih => exact fun results s => ih results (s.setFile f)
  | unmount p ih => exact fun results s => ih results s.dispose

/-! ### The obligations -/

/-- Settles O8: every command is a part (`exec_part`), and a part goes on with more inputs from where it stopped. -/
theorem lateAnswerEqualsPromptAnswer : Obligations.LateAnswerEqualsPromptAnswer := by
  intro i s t r a pre rest hseq hjob hexec hinputs hwait
  obtain ⟨k, hk, hrun⟩ := exec_part i
  obtain rfl : k { s with inputs := pre } = t := Host.Outcome.next.inj ((hrun _).symm.trans hexec)
  have hlate : k { s with inputs := pre ++ .device a :: rest } = _ :=
    hk.moreInputs { s with inputs := pre } (.device a :: rest) hseq
  have hnone : (k { s with inputs := pre ++ .device a :: rest }).job = none := (hk.job _).trans hjob
  rw [step_answer hwait hinputs, ← hlate, hrun, continueSequence_none hnone]

/-- Settles O9: a host sequence is run by `runProg`, which goes on with more inputs from where it stopped. -/
theorem lateAnswerContinuesHostSequence : Obligations.LateAnswerContinuesHostSequence := by
  intro q s t r a pre rest hseq hbusy hjob hcall hinputs hwait
  have hrun (x : List Input) : State.call { s with inputs := x } q = runSequence q { s with inputs := x } := by
    simp [State.call, hbusy, hjob]
  have hlate : runSequence q { s with inputs := pre ++ .device a :: rest } = _ :=
    runProg_moreInputs (.device a :: rest) _ [] { s with inputs := pre } hseq hbusy fun _ => rfl
  have hends : runProg q s.file (program q s.file s.slots.length s.cfg.debugChecks) [] { s with inputs := pre } = .next t :=
    (hrun pre).symm.trans hcall
  rw [step_answer hwait hinputs, hrun, hlate, hends, afterStore_next]

end Sys2Proof.Machine

/-! # The state's invariants (R23, R24, R25, R26, R32, R43, R52, R55)

First what the shared operations leave of slots, log and medium, and what taking an input can do. Then three facts of every
command: what it leaves alone (`Frame`), that it loses no dirty data (`Keeps`), and that it ends in a state that meets the
invariants (`State.Rested`). A step is commands and the host's acts between them. -/

namespace Sys2Proof.Machine

open Sys2Proof Sys2Proof.Claims

/-! ### Slots -/

theorem slot_cleanSlot (s : State) (i j : Nat) :
    (s.cleanSlot i).slot j = if j = i then { s.slot i with dirty := false } else s.slot j := by
  rw [State.cleanSlot, slot_setSlot]
  by_cases hj : j = i
  · subst hj
    by_cases hi : j < s.slots.length
    · rw [if_pos ⟨rfl, hi⟩, if_pos rfl]
    · rw [if_neg (hi ·.2), if_pos rfl, slot_out s (not_lt.mp hi)]
      rfl
  · rw [if_neg (hj ·.1), if_neg hj]

theorem slot_invalidateSlot (s : State) (i j : Nat) :
    (s.invalidateSlot i).slot j = if j = i then { s.slot i with valid := false } else s.slot j := by
  rw [State.invalidateSlot, slot_setSlot]
  by_cases hj : j = i
  · subst hj
    by_cases hi : j < s.slots.length
    · rw [if_pos ⟨rfl, hi⟩, if_pos rfl]
    · rw [if_neg (hi ·.2), if_pos rfl, slot_out s (not_lt.mp hi)]
      rfl
  · rw [if_neg (hj ·.1), if_neg hj]

theorem slot_tagSlot (s : State) {i : Nat} (hi : i < s.slots.length) (b : Word) (d : Bool) (j : Nat) :
    (s.tagSlot i b d).slot j = if j = i then { s.slot i with tag := b, valid := true, dirty := d } else s.slot j := by
  rw [State.tagSlot, slot_setSlot]
  simp only [hi, and_true]

/-- A new block in the data RAM leaves the tag array alone (R21, R147). -/
theorem setSlotData_tags (s : State) (i : Nat) (b : Block) (j : Nat) :
    ((s.setSlotData i b).slot j).valid = (s.slot j).valid ∧ ((s.setSlotData i b).slot j).tag = (s.slot j).tag ∧
      ((s.setSlotData i b).slot j).dirty = (s.slot j).dirty :=
  fillSlots_tags s i [b] j

/-- Cleaning a run of slots clears their dirty bits and nothing else (R160). -/
theorem slot_cleanRun (s : State) (i r j : Nat) :
    (s.cleanRun i r).slot j = if i ≤ j ∧ j < i + r then { s.slot j with dirty := false } else s.slot j := by
  induction r generalizing s i with
  | zero => rw [State.cleanRun, if_neg (by omega)]
  | succ r ih =>
    rw [State.cleanRun, ih, slot_cleanSlot]
    by_cases hj : j = i
    · subst hj
      rw [if_neg (by omega), if_pos rfl, if_pos (by omega)]
    · by_cases hr : i + 1 ≤ j ∧ j < i + 1 + r
      · rw [if_pos hr, if_neg hj, if_pos (by omega)]
      · rw [if_neg hr, if_neg hj, if_neg (by omega)]

theorem cleanRun_fields (s : State) (i r : Nat) : s.cleanRun i r = { s with slots := (s.cleanRun i r).slots } := by
  induction r generalizing s i with
  | zero => rfl
  | succ r ih =>
    rw [State.cleanRun, ih]
    rfl

theorem markSlots_fields (s : State) (qs : List Nat) : s.markSlots qs = { s with slots := (s.markSlots qs).slots } := by
  induction qs generalizing s with
  | nil => rfl
  | cons q qs ih =>
    rw [State.markSlots, ih]
    rfl

theorem dirtyAt_iff (s : State) (i : Nat) : s.dirtyAt i = true ↔ (s.slot i).valid = true ∧ (s.slot i).dirty = true := by
  rw [State.dirtyAt, Bool.and_eq_true]

theorem dirtyAt_of_empty {s : State} {i : Nat} (h : (s.slot i).valid = false) : s.dirtyAt i = false := by
  rw [State.dirtyAt, h, Bool.false_and]

theorem caches_iff (s : State) (i b : Nat) : s.caches i b = true ↔ (s.slot i).valid = true ∧ (s.slot i).tag.toNat = b := by
  rw [State.caches, Bool.and_eq_true, decide_eq_true_iff]

theorem mismatched_iff (s : State) (j want : Nat) :
    s.mismatched j want = true ↔ (s.slot j).valid = true ∧ (s.slot j).tag.toNat ≠ want := by
  rw [State.mismatched, Bool.and_eq_true, decide_eq_true_iff]

theorem lt_of_dirtyAt {s : State} {i : Nat} (h : s.dirtyAt i = true) : i < s.slots.length :=
  slot_lt_of_valid s ((dirtyAt_iff s i).mp h).1

/-- What `FLUSH` writes from a dirty slot on is a run (R161). -/
theorem runLength_isRun {s : State} {i : Nat} (hi : s.dirtyAt i = true) : s.IsRun i (s.runLength i) := by
  obtain ⟨hge, -, hall, -⟩ := countUp_spec (fun r => i + r < s.slots.length && (s.slot i).tag.toNat + r ≤ maxBlock &&
    s.dirtyAt (i + r) && (s.slot (i + r)).tag.toNat = (s.slot i).tag.toNat + r) s.slots.length 1
  have hrun (q : Nat) (hq : q < s.runLength i) :
      i + q < s.slots.length ∧ s.dirtyAt (i + q) = true ∧ (s.slot (i + q)).tag.toNat = (s.slot i).tag.toNat + q := by
    by_cases h0 : q = 0
    · subst h0
      exact ⟨lt_of_dirtyAt hi, hi, rfl⟩
    · have hq := hall q (by omega) hq
      simp only [Bool.and_eq_true, decide_eq_true_iff] at hq
      obtain ⟨⟨⟨hlt, -⟩, hd⟩, ht⟩ := hq
      exact ⟨hlt, hd, ht⟩
  have hlen : 1 ≤ s.runLength i := hge
  have hlast := (hrun (s.runLength i - 1) (by omega)).1
  exact ⟨hlen, by omega, fun q hq => (hrun q hq).2⟩

/-- A dirty slot alone is a run of one. -/
theorem isRun_one {s : State} {j : Nat} (hj : s.dirtyAt j = true) : s.IsRun j 1 := by
  refine ⟨le_refl 1, lt_of_dirtyAt hj, fun q hq => ?_⟩
  obtain rfl : q = 0 := by omega
  exact ⟨hj, rfl⟩

/-! ### Device transactions -/

/-- What ends a transaction that has been logged (R206, R207, R211). -/
inductive Transacts (r : Request) (v : State) : State → Prop where
  | moved : Transacts r v (v.transfer r)
  | spoiledBuffer : Transacts r v (v.spoilBuffer r)
  | spoiled : Transacts r v ((v.spoilBuffer r).spoilMedium r)

/-- A wait that ends has taken an input, logged its transaction and ended it. -/
theorem reply_transacts {s t : State} {r : Request} {rep : Reply} (h : s.reply r = some (rep, t)) :
    ∃ x rest, s.inputs = x :: rest ∧ Transacts r (State.logged { s with inputs := rest } r rep) t := by
  obtain ⟨x, rest, hin, ⟨a, ha⟩ | ⟨rfl, rfl⟩⟩ := reply_cases h
  · refine ⟨x, rest, hin, ?_⟩
    cases a with
    | ok =>
      obtain ⟨rfl, rfl⟩ := Prod.mk.inj ha
      exact .moved
    | err e =>
      obtain ⟨rfl, rfl⟩ := Prod.mk.inj ha
      exact .spoiled
    | ideal =>
      rw [State.answer] at ha
      split at ha <;> obtain ⟨rfl, rfl⟩ := Prod.mk.inj ha
      · exact .moved
      · exact .spoiledBuffer
  · exact ⟨x, rest, hin, .spoiled⟩

theorem deliver_devLog (s : State) (r : Request) (bs : List Block) : (s.deliver r bs).devLog = s.devLog := by
  unfold State.deliver
  split
  · rw [fillSlots_fields]
  · rfl

theorem deliver_medium (s : State) (r : Request) (bs : List Block) : (s.deliver r bs).medium = s.medium := by
  unfold State.deliver
  split
  · rw [fillSlots_fields]
  · rfl

/-- A delivery to a buffer of `r.cnt` blocks changes no slot outside it. -/
theorem slot_deliver {s : State} {r : Request} {bs : List Block} (hbs : bs.length = r.cnt) {j : Nat}
    (hj : ∀ i, r.buf = .slots i → j < i ∨ i + r.cnt ≤ j) : (s.deliver r bs).slot j = s.slot j := by
  unfold State.deliver
  split
  case h_1 i hbuf => exact fillSlots_other s i bs (hbs ▸ hj i hbuf)
  case h_2 => rfl

theorem transfer_devLog (s : State) (r : Request) : (s.transfer r).devLog = s.devLog := by
  unfold State.transfer
  split
  · exact deliver_devLog _ _ _
  · rfl

theorem spoilBuffer_devLog (s : State) (r : Request) : (s.spoilBuffer r).devLog = s.devLog := by
  unfold State.spoilBuffer
  split
  · exact deliver_devLog s r _
  · rfl

theorem spoilMedium_devLog (s : State) (r : Request) : (s.spoilMedium r).devLog = s.devLog := by
  unfold State.spoilMedium
  split <;> rfl

theorem spoilBuffer_medium (s : State) (r : Request) : (s.spoilBuffer r).medium = s.medium := by
  unfold State.spoilBuffer
  split
  · exact deliver_medium s r _
  · rfl

theorem spoilMedium_slots (s : State) (r : Request) : (s.spoilMedium r).slots = s.slots := by
  unfold State.spoilMedium
  split <;> rfl

/-- Slot `j` is no part of the buffer a read fills. -/
def Request.Spares (r : Request) (j : Nat) : Prop := r.kind = .rd → ∀ i, r.buf = .slots i → j < i ∨ i + r.cnt ≤ j

theorem slot_transfer {s : State} {r : Request} {j : Nat} (hj : r.Spares j) : (s.transfer r).slot j = s.slot j := by
  unfold State.transfer
  split
  case h_1 hk => exact slot_deliver (by simp [State.mediumBlocks]) (hj hk)
  case h_2 => rfl

theorem slot_spoilBuffer {s : State} {r : Request} {j : Nat} (hj : r.Spares j) : (s.spoilBuffer r).slot j = s.slot j := by
  unfold State.spoilBuffer
  split
  case h_1 hk => exact slot_deliver (by simp [State.freeBlocks]) (hj hk)
  case h_2 => rfl

theorem Transacts.devLog {r : Request} {v t : State} (h : Transacts r v t) : t.devLog = v.devLog := by
  cases h with
  | moved => exact transfer_devLog v r
  | spoiledBuffer => exact spoilBuffer_devLog v r
  | spoiled => exact (spoilMedium_devLog _ r).trans (spoilBuffer_devLog v r)

theorem Transacts.slot {r : Request} {v t : State} (h : Transacts r v t) {j : Nat} (hj : r.Spares j) :
    t.slot j = v.slot j := by
  cases h with
  | moved => exact slot_transfer hj
  | spoiledBuffer => exact slot_spoilBuffer hj
  | spoiled => exact (slot_congr (spoilMedium_slots _ r) j).trans (slot_spoilBuffer hj)

/-- The blocks a request writes exist (R210). -/
def Request.Fits (r : Request) : Prop := r.kind = .wr → 1 ≤ r.cnt ∧ r.blk.toNat + r.cnt ≤ 2 ^ 32

theorem source_length_le (s : State) {r : Request} (hr : 1 ≤ r.cnt) : (s.source r).length ≤ r.cnt := by
  unfold State.source
  split
  · simp
  · exact hr

/-- A transaction whose blocks exist keeps the medium's canonical form. -/
theorem Transacts.medium_wf {r : Request} {v t : State} (h : Transacts r v t) (hr : r.Fits)
    (hv : Memory.wf v.medium = true) : Memory.wf t.medium = true := by
  cases h with
  | moved =>
    unfold State.transfer
    split
    case h_1 => rwa [deliver_medium]
    case h_2 hk =>
      obtain ⟨hcnt, hfit⟩ := hr hk
      have := source_length_le v hcnt
      exact wf_writeBlocks hv _ (by omega)
  | spoiledBuffer => rwa [spoilBuffer_medium]
  | spoiled =>
    rw [← spoilBuffer_medium v r] at hv
    unfold State.spoilMedium
    split
    case h_1 => exact hv
    case h_2 hk =>
      have hlen : (State.freeBlocks (v.spoilBuffer r) r.cnt).length = r.cnt := by simp [State.freeBlocks]
      exact wf_writeBlocks hv _ (hlen.symm ▸ (hr hk).2)

/-- The end of a wait notes the transaction in the device log (log entry 9). -/
theorem reply_devLog {s t : State} {r : Request} {rep : Reply} (h : s.reply r = some (rep, t)) :
    t.devLog = s.devLog ++ [⟨r.kind, r.blk, r.cnt, if r.kind = .wr then s.source r else [], rep⟩] := by
  obtain ⟨x, rest, -, ht⟩ := reply_transacts h
  rw [ht.devLog]
  rfl

/-- The end of a wait changes no slot but those a read fills. -/
theorem reply_slot {s t : State} {r : Request} {rep : Reply} (h : s.reply r = some (rep, t)) {j : Nat} (hj : r.Spares j) :
    t.slot j = s.slot j := by
  obtain ⟨x, rest, -, ht⟩ := reply_transacts h
  rw [ht.slot hj]
  rfl

theorem reply_medium_wf {s t : State} {r : Request} {rep : Reply} (h : s.reply r = some (rep, t)) (hr : r.Fits)
    (hs : Memory.wf s.medium = true) : Memory.wf t.medium = true := by
  obtain ⟨x, rest, -, ht⟩ := reply_transacts h
  exact ht.medium_wf hr hs

/-! ### Requests -/

theorem State.RequestOk.select {s : State} {r : Request} {base cnt : Nat} {start : Word} {j left : Nat} (h : s.RequestOk r)
    (hc : r.cont = .select base cnt start j left) :
    s.view.valid = false ∧ s.WindowOk base cnt start ∧ base ≤ j ∧ j + left + 1 = base + cnt ∧
      s.WindowTags base (j - base) start ∧ s.dirtyAt j = true ∧ r = s.writeBackOf j r.cont := by
  simp only [State.RequestOk, hc] at h ⊢
  obtain ⟨hv, hw, hb, hl, ht, hd, -, hr⟩ := h
  exact ⟨hv, hw, hb, hl, ht, hd, hr⟩

theorem State.RequestOk.not_fillWrite {s : State} {r : Request} {j left : Nat} (h : s.RequestOk r) :
    r.cont ≠ .fillWrite j left := by
  intro hc
  simp only [State.RequestOk, hc] at h

theorem State.RequestOk.fillRead {s : State} {r : Request} {j left : Nat} (h : s.RequestOk r)
    (hc : r.cont = .fillRead j left) :
    s.view.valid = true ∧ s.view.base ≤ j ∧ j + left + 1 = s.view.base + s.view.cnt ∧ (s.slot j).valid = false ∧
      r = s.fillOf j r.cont := by
  simpa only [State.RequestOk, hc] using h

theorem State.RequestOk.flush {s : State} {r : Request} {i n fuel runs blocks : Nat} (h : s.RequestOk r)
    (hc : r.cont = .flush i n fuel runs blocks) :
    s.view.valid = false ∧ s.IsRun i n ∧ s.slots.length ≤ i + n + fuel ∧ r = s.runOf i n r.cont := by
  simpa only [State.RequestOk, hc] using h

theorem State.RequestOk.headerLoad {s : State} {r : Request} (h : s.RequestOk r) (hc : r.cont = .headerLoad) :
    r = headerRead := by
  simp only [State.RequestOk, hc] at h
  exact h.2

theorem State.RequestOk.headerStore {s : State} {r : Request} {c : Word} (h : s.RequestOk r)
    (hc : r.cont = .headerStore c) : r = headerWrite c := by
  simp only [State.RequestOk, hc] at h
  exact h.2.2.2

/-- Every request a command's rule issues writes blocks that exist (R210). -/
theorem State.RequestOk.fits {s : State} {r : Request} (h : s.RequestOk r) : r.Fits := by
  intro hk
  cases hc : r.cont with
  | select base cnt start j left =>
    obtain ⟨-, -, -, -, -, -, hr⟩ := h.select hc
    rw [hr]
    exact ⟨le_refl 1, (s.slot j).tag.isLt⟩
  | fillWrite j left => exact absurd hc h.not_fillWrite
  | fillRead j left =>
    obtain ⟨-, -, -, -, hr⟩ := h.fillRead hc
    rw [hr] at hk
    cases hk
  | flush i n fuel runs blocks =>
    obtain ⟨-, ⟨hn, -, hrun⟩, -, hr⟩ := h.flush hc
    have hlast := (hrun (n - 1) (by omega)).2
    have := (s.slot (i + (n - 1))).tag.isLt
    rw [hr]
    exact ⟨hn, show (s.slot i).tag.toNat + n ≤ 2 ^ 32 by omega⟩
  | headerLoad =>
    rw [h.headerLoad hc] at hk
    cases hk
  | headerStore c =>
    rw [h.headerStore hc]
    exact ⟨le_refl 1, show (0 : Word).toNat + 1 ≤ 2 ^ 32 by decide⟩

/-- Every read a command's rule issues fills a slot that is Empty, or the header buffer (R140, R178). -/
theorem State.RequestOk.spares {s : State} {r : Request} (h : s.RequestOk r) {j : Nat} (hj : s.dirtyAt j = true) :
    r.Spares j := by
  intro hk i hbuf
  cases hc : r.cont with
  | select base cnt start j left =>
    obtain ⟨-, -, -, -, -, -, hr⟩ := h.select hc
    rw [hr] at hk
    cases hk
  | fillWrite j left => exact absurd hc h.not_fillWrite
  | fillRead k left =>
    obtain ⟨-, -, -, hempty, hr⟩ := h.fillRead hc
    have hne : j ≠ k := by
      rintro rfl
      rw [dirtyAt_of_empty hempty] at hj
      cases hj
    rw [hr] at hbuf ⊢
    obtain rfl : k = i := by cases hbuf; rfl
    show j < k ∨ k + 1 ≤ j
    omega
  | flush i n fuel runs blocks =>
    obtain ⟨-, -, -, hr⟩ := h.flush hc
    rw [hr] at hk
    cases hk
  | headerLoad =>
    rw [h.headerLoad hc] at hbuf
    cases hbuf
  | headerStore c =>
    rw [h.headerStore hc] at hk
    cases hk

/-! ### What taking an input can do (R9, R40, R46) -/

/-- Only what the register port itself writes has changed: the inputs, the value read, `CMD1`, `CMD2` and `ovr`. -/
def PortOnly (s t : State) : Prop :=
  ∃ ins rd c1 c2 ov, t = { s with inputs := ins, readData := rd, cmd1 := c1, cmd2 := c2, ovr := ov }

theorem PortOnly.refl (s : State) : PortOnly s s := ⟨_, _, _, _, _, rfl⟩

/-- A store to `CTRL` is a reset, a cancel of a waiting command, or nothing (R46, R297). -/
theorem writeCtrl_cases (s : State) (v : Word) :
    (ctrlReset v = true ∧ s.writeCtrl v = s.performReset) ∨
      (ctrlReset v = false ∧ ctrlCancel v = true ∧ ∃ r, s.seq = .wait r) ∨
      (ctrlReset v = false ∧ s.writeCtrl v = s) := by
  unfold State.writeCtrl
  cases hr : ctrlReset v with
  | true => exact .inl ⟨rfl, rfl⟩
  | false =>
    cases hc : ctrlCancel v with
    | true =>
      cases hs : s.seq with
      | wait r => exact .inr (.inl ⟨rfl, rfl, r, rfl⟩)
      | idle => exact .inr (.inr ⟨rfl, rfl⟩)
      | run => exact .inr (.inr ⟨rfl, rfl⟩)
    | false => exact .inr (.inr ⟨rfl, rfl⟩)

/-- What an aligned 32-bit store or any other does (R40, R41, R42, R46). -/
theorem busWrite_cases {s t : State} {width off : Nat} {v : Word} (h : s.busWrite width off v = .next t) :
    PortOnly s t ∨ (s.busy = false ∧ (s.launch v).runCommand = .next t) ∨
      (width = 4 ∧ off = 0x1C ∧ t = s.writeCtrl v) := by
  unfold State.busWrite at h
  split at h
  · cases h
    exact .inl (.refl s)
  · rename_i hw
    split at h
    · by_cases hb : s.busy = true
      · rw [if_pos hb] at h
        cases h
        exact .inl ⟨_, _, _, _, _, rfl⟩
      · rw [if_neg hb] at h
        exact .inr (.inl ⟨Bool.eq_false_iff.mpr hb, h⟩)
    · cases h
      split <;> exact .inl ⟨_, _, _, _, _, rfl⟩
    · cases h
      split <;> exact .inl ⟨_, _, _, _, _, rfl⟩
    · cases h
      exact .inr (.inr ⟨not_not.mp hw, rfl, rfl⟩)
    · cases h
      exact .inl (.refl s)

/-- What an input does that ends no wait: the port's own registers change, a reset, the launch of a command, or the call of a
host sequence. -/
theorem takeInput_cases {s t : State} (hnone : ∀ r, s.seq = .wait r → s.reply r = none) (h : s.takeInput = .next t) :
    PortOnly s t ∨ ∃ x rest, s.inputs = x :: rest ∧
      ((isResetInput x ∧ t = State.performReset { s with inputs := rest }) ∨
        (s.busy = false ∧ ∃ v, (State.launch { s with inputs := rest } v).runCommand = .next t) ∨
        (∃ q, x = .call q ∧ State.call { s with inputs := rest } q = .next t)) := by
  have hport {u : State} {rest : List Input} (hu : PortOnly { s with inputs := rest } u) : PortOnly s u := by
    obtain ⟨ins, rd, c1, c2, ov, rfl⟩ := hu
    exact ⟨ins, rd, c1, c2, ov, rfl⟩
  have hctrl {x : Input} {rest : List Input} {v : Word} (hreset : ctrlReset v = true → isResetInput x)
      (hcancel : ctrlReset v = false → ctrlCancel v = true → ∀ r, s.reply r ≠ none)
      (ht : t = State.writeCtrl { s with inputs := rest } v) :
      PortOnly s t ∨ (isResetInput x ∧ t = State.performReset { s with inputs := rest }) := by
    rcases writeCtrl_cases { s with inputs := rest } v with ⟨hr, hw⟩ | ⟨hr, hc, r, hs⟩ | ⟨-, hw⟩
    · exact .inr ⟨hreset hr, ht.trans hw⟩
    · exact absurd (hnone r hs) (hcancel hr hc r)
    · exact .inl (ht.trans hw ▸ hport (.refl _))
  unfold State.takeInput at h
  split at h
  case h_1 =>
    cases h
    exact .inl (.refl s)
  case h_2 width off v rest hin =>
    rcases busWrite_cases h with hp | ⟨hb, hrun⟩ | ⟨rfl, rfl, ht⟩
    · exact .inl (hport hp)
    · exact .inr ⟨_, rest, hin, .inr (.inl ⟨hb, v, hrun⟩)⟩
    · exact (hctrl (x := .write 4 0x1C v) (fun hr => .inr ⟨v, hr, .inl rfl⟩)
        (fun hr hc r => by simp [State.reply, hin, hr, hc]) ht).imp_right fun hr => ⟨_, rest, hin, .inl hr⟩
  case h_3 =>
    cases h
    exact .inl ⟨_, _, _, _, _, rfl⟩
  case h_4 rest hin =>
    cases h
    exact .inr ⟨_, rest, hin, .inl ⟨.inl rfl, rfl⟩⟩
  case h_5 =>
    cases h
    exact .inl ⟨_, _, _, _, _, rfl⟩
  case h_6 v a rest hin =>
    exact (hctrl (x := .ctrlWith v a) (fun hr => .inr ⟨v, hr, .inr ⟨a, rfl⟩⟩)
      (fun hr hc r => by simp [State.reply, hin, hr, hc]) (Host.Outcome.next.inj h).symm).imp_right
        fun hr => ⟨_, rest, hin, .inl hr⟩
  case h_7 q rest hin => exact .inr ⟨_, rest, hin, .inr (.inr ⟨q, rfl, h⟩)⟩

/-! ### What a command can do (R280, R284) -/

/-- `t` is `s` with a report, and with what the header commands keep changed: the header, `hdr_validated`, and the mount, now
`m`. -/
def Reports (s : State) (m : Bool) (t : State) : Prop :=
  ∃ h hv e r0 r1, t = State.finish { s with hdr := h, hdrValidated := hv, mounted := m } e r0 r1

/-- A command that raises an error changes nothing else. -/
theorem reports_raise (s : State) (e : Err) : Reports s s.mounted (s.raise e) := ⟨_, _, _, _, _, rfl⟩

/-- The view register is invalid (R120, R160). -/
def State.dropView (s : State) : State := { s with view := { s.view with valid := false } }

/-- All a command can do: it reports at once, it works on the slots, or it turns to the device. -/
inductive Executes (s : State) : Instr → State → Prop where
  | reports {i : Instr} {t : State} (h : Reports s s.mounted t) : Executes s i t
  | mounts {i : Instr} {m : Bool} {t : State} (hi : i = .hclr ∨ i = .hval) (h : Reports s m t) : Executes s i t
  | sel (start : Word) :
      Executes s (.sel start) (constructLoop (s.selPlan start).1 (s.selPlan start).2 start (s.selPlan start).2
        (s.selPlan start).1 s.dropView)
  | selx (len : Byte) (start : Word) (h : s.selxInRange len start = true) :
      Executes s (.selx len start) (constructLoop (s.selxBase len.toNat start) len.toNat start len.toNat
        (s.selxBase len.toNat start) s.dropView)
  | vrd (h : s.view.valid = true) : Executes s .vrd (fillLoop s.view.cnt s.view.base s)
  | vmod (off len r0 : Word) (h : s.view.valid = true) :
      Executes s (.vmod off len) ((s.markSlots (markedSlots off len s.view.cnt)).ret r0 0)
  | store {i : Instr} (j : Nat) (b : Block) : Executes s i ((s.setSlotData j b).ret 0 0)
  | flush : Executes s .flush (flushLoop s.slots.length 0 0 0 s.dropView)
  | hld : Executes s .hld
      (State.await { s with hdrValidated := false, mounted := false } headerRead (resume headerRead.cont))
  | hwb (h : s.hdrValidated = true) : Executes s .hwb
      (State.await { s with hdr := withChecksum s.cfg.crc s.hdr } (headerWrite (cksum s.cfg.crc s.hdr))
        (resume (headerWrite (cksum s.cfg.crc s.hdr)).cont))

theorem Executes.ite {s : State} {i : Instr} {c : Prop} [Decidable c] {t u : State} (ht : c → Executes s i t)
    (hu : Executes s i u) : Executes s i (if c then t else u) := by
  split
  · exact ht ‹c›
  · exact hu

theorem Executes.withView {s : State} {i : Instr} {k : State → State} (hk : s.view.valid = true → Executes s i (k s)) :
    Executes s i (s.withView k) :=
  .ite hk (.reports (reports_raise s .noView))

theorem Executes.withHeader {s : State} {i : Instr} {k : State → State} (hk : s.hdrValidated = true → Executes s i (k s)) :
    Executes s i (s.withHeader k) :=
  .ite hk (.reports (reports_raise s .notValidated))

/-- A command that ends with its results, the slots and the mount as they were. -/
theorem Executes.ret {s : State} {i : Instr} {h : Block} {r0 r1 : Word} :
    Executes s i (State.ret { s with hdr := h } r0 r1) :=
  .reports ⟨h, s.hdrValidated, .ok, r0, r1, rfl⟩

theorem Executes.raise {s : State} {i : Instr} {e : Err} : Executes s i (s.raise e) := .reports (reports_raise s e)

/-- Every command is one of these. -/
theorem exec_executes {i : Instr} {s t : State} (h : exec i s = .next t) : Executes s i t := by
  cases i with
  | hval =>
    exact Host.Outcome.next.inj h ▸
      .ite (fun _ => .mounts (.inr rfl) ⟨_, _, _, _, _, rfl⟩)
        (.ite (fun _ => .mounts (.inr rfl) ⟨_, _, _, _, _, rfl⟩)
          (.ite (fun _ => .mounts (.inr rfl) ⟨_, _, _, _, _, rfl⟩) (.mounts (.inr rfl) ⟨_, _, _, _, _, rfl⟩)))
  | nop => exact Host.Outcome.next.inj h ▸ .ret
  | sel start => exact Host.Outcome.next.inj h ▸ .sel start
  | selx len start => exact Host.Outcome.next.inj h ▸ .ite (.selx len start) .raise
  | vrd => exact Host.Outcome.next.inj h ▸ .withView .vrd
  | vmod off len => exact Host.Outcome.next.inj h ▸ .withView fun hv => .ite (fun _ => .vmod off len _ hv) .raise
  | flush => exact Host.Outcome.next.inj h ▸ .flush
  | vlb off => exact Host.Outcome.next.inj h ▸ .withView fun _ => .ite (fun _ => .ret) .raise
  | vsb off val => exact Host.Outcome.next.inj h ▸ .withView fun _ => .ite (fun _ => .store _ _) .raise
  | vlw off => exact Host.Outcome.next.inj h ▸ .withView fun _ => .ite (fun _ => .ret) .raise
  | vsw off val => exact Host.Outcome.next.inj h ▸ .withView fun _ => .ite (fun _ => .store _ _) .raise
  | hld => exact Host.Outcome.next.inj h ▸ .hld
  | hinit => exact Host.Outcome.next.inj h ▸ .ret
  | hclr => exact Host.Outcome.next.inj h ▸ .mounts (.inl rfl) ⟨_, _, _, _, _, rfl⟩
  | hsum => exact Host.Outcome.next.inj h ▸ .ret
  | hwb => exact Host.Outcome.next.inj h ▸ .withHeader .hwb
  | hcnt => exact Host.Outcome.next.inj h ▸ .withHeader fun _ => .ret
  | hget idx =>
    exact Host.Outcome.next.inj h ▸ .withHeader fun _ => .ite (fun _ => .ite (fun _ => .ret) .ret) .raise
  | hnew => exact Host.Outcome.next.inj h ▸ .withHeader fun _ => .ite (fun _ => .raise) .ret
  | hdel id =>
    refine Host.Outcome.next.inj h ▸ .withHeader fun _ => .ite (fun _ => ?_) .raise
    split
    · exact .ret
    · exact .ret
  | hlw off => exact Host.Outcome.next.inj h ▸ .ite (fun _ => .ret) .raise
  | hsw off val => exact Host.Outcome.next.inj h ▸ .ite (fun _ => .ret) .raise

/-! ### What a command leaves of the host's state (R52, R54) -/

/-- The open File and the mount are as they were. -/
structure HostKept (s t : State) : Prop where
  file : t.file = s.file
  mounted : t.mounted = s.mounted

theorem HostKept.trans {s t u : State} (h : HostKept s t) (k : HostKept t u) : HostKept s u :=
  ⟨k.file.trans h.file, k.mounted.trans h.mounted⟩

theorem setSlot_hostKept (s : State) (i : Nat) (sl : Slot) : HostKept s (s.setSlot i sl) := ⟨rfl, rfl⟩

theorem dropView_hostKept (s : State) : HostKept s s.dropView := ⟨rfl, rfl⟩

theorem cleanRun_hostKept (s : State) (i r : Nat) : HostKept s (s.cleanRun i r) := by
  rw [cleanRun_fields]
  exact ⟨rfl, rfl⟩

theorem markSlots_hostKept (s : State) (qs : List Nat) : HostKept s (s.markSlots qs) := by
  rw [markSlots_fields]
  exact ⟨rfl, rfl⟩

/-- A suspension point leaves the host's state if what follows it does. -/
theorem await_hostKept {s : State} {r : Request} {k : State → State} (hk : ∀ t, HostKept t (k t)) :
    HostKept s (s.await r k) := by
  have hreply {rep : Reply} {t : State} (hr : s.reply r = some (rep, t)) : HostKept s t :=
    ⟨(reply_same hr).file, (reply_same hr).mounted⟩
  rcases await_cases s r k with ⟨-, h⟩ | ⟨t, hr, h⟩ | ⟨t, e, hr, h⟩ | ⟨t, hr, h⟩ <;> rw [h]
  · exact ⟨rfl, rfl⟩
  · exact (hreply hr).trans (hk t)
  · exact (hreply hr).trans ⟨rfl, rfl⟩
  · exact (hreply hr).trans ⟨rfl, rfl⟩

theorem constructLoop_hostKept (base cnt : Nat) (start : Word) (left j : Nat) (s : State) :
    HostKept s (constructLoop base cnt start left j s) := by
  induction left generalizing j s with
  | zero => exact ⟨rfl, rfl⟩
  | succ left ih =>
    have hempty (t : State) := (setSlot_hostKept t j _).trans (ih (j + 1) (t.invalidateSlot j))
    rw [constructLoop_succ]
    split
    · split
      · exact await_hostKept fun t => (setSlot_hostKept t j _).trans (hempty (t.cleanSlot j))
      · exact hempty s
    · exact ih (j + 1) s

theorem fillLoop_hostKept (left j : Nat) (s : State) : HostKept s (fillLoop left j s) := by
  induction left generalizing j s with
  | zero => exact ⟨rfl, rfl⟩
  | succ left ih =>
    have hrefill (t : State) : HostKept t (refillFrom left j t) :=
      (setSlot_hostKept t j _).trans (await_hostKept fun u => (setSlot_hostKept u j _).trans (ih (j + 1) (u.filled j)))
    rw [fillLoop_succ]
    split
    · exact ih (j + 1) s
    · split
      · exact await_hostKept fun t => (setSlot_hostKept t j _).trans (hrefill (t.cleanSlot j))
      · exact hrefill s

theorem flushLoop_hostKept (fuel i runs blocks : Nat) (s : State) : HostKept s (flushLoop fuel i runs blocks s) := by
  induction fuel generalizing i runs blocks s with
  | zero => exact ⟨rfl, rfl⟩
  | succ fuel ih =>
    rw [flushLoop_succ]
    split
    · split
      · exact await_hostKept fun t => (cleanRun_hostKept t _ _).trans (ih _ _ _ _)
      · exact ih (i + 1) runs blocks s
    · exact ⟨rfl, rfl⟩

/-- Every command but `HLD`, `HVAL` and `HCLR` leaves the host's state alone. -/
theorem exec_hostKept {i : Instr} {s t : State} (h : exec i s = .next t) (hld : i ≠ .hld) (hclr : i ≠ .hclr)
    (hval : i ≠ .hval) : HostKept s t := by
  cases exec_executes h with
  | reports h =>
    obtain ⟨_, _, _, _, _, rfl⟩ := h
    exact ⟨rfl, rfl⟩
  | mounts hi => exact absurd hi (not_or.mpr ⟨hclr, hval⟩)
  | sel start => exact (dropView_hostKept s).trans (constructLoop_hostKept _ _ _ _ _ _)
  | selx len start => exact (dropView_hostKept s).trans (constructLoop_hostKept _ _ _ _ _ _)
  | vrd => exact fillLoop_hostKept _ _ s
  | vmod off len r0 => exact (markSlots_hostKept s _).trans ⟨rfl, rfl⟩
  | store j b => exact ⟨rfl, rfl⟩
  | flush => exact (dropView_hostKept s).trans (flushLoop_hostKept _ _ _ _ _)
  | hld => exact absurd rfl hld
  | hwb => 
    exact HostKept.trans (t := { s with hdr := withChecksum s.cfg.crc s.hdr }) ⟨rfl, rfl⟩
      (await_hostKept fun t => ⟨rfl, rfl⟩)

/-- `HLD` ends the mount before its read (R54). -/
theorem execHld_host {s t : State} (h : execHld s = .next t) : t.file = s.file ∧ t.mounted = false := by
  obtain rfl := Host.Outcome.next.inj h
  have hk : HostKept { s with hdrValidated := false, mounted := false } _ :=
    await_hostKept (r := headerRead) (k := fun t => t.ret 0 0) fun t => ⟨rfl, rfl⟩
  exact ⟨hk.file, hk.mounted⟩

/-- `HVAL` begins the mount when it succeeds (R54; that a failure leaves it is log entry 28). -/
theorem execHval_host {s t : State} (h : execHval s = .next t) :
    t.file = s.file ∧ t.mounted = (s.mounted || t.hdrValidated) := by
  obtain rfl := Host.Outcome.next.inj h
  split
  · exact ⟨rfl, (Bool.or_false _).symm⟩
  · split
    · exact ⟨rfl, (Bool.or_false _).symm⟩
    · split
      · exact ⟨rfl, (Bool.or_false _).symm⟩
      · exact ⟨rfl, (Bool.or_true _).symm⟩

/-- No command touches the host's open File (R52). -/
theorem exec_file {i : Instr} {s t : State} (h : exec i s = .next t) : t.file = s.file := by
  by_cases hld : i = .hld
  · subst hld
    exact (execHld_host h).1
  · by_cases hval : i = .hval
    · subst hval
      exact (execHval_host h).1
    · by_cases hclr : i = .hclr
      · subst hclr
        obtain rfl := Host.Outcome.next.inj h
        exact finish_file _ .ok 0 0
      · exact (exec_hostKept h hld hclr hval).file

/-- Settles O55: `HLD`, `HVAL` and `HCLR` by their own laws, every other command by `exec_hostKept`. -/
theorem mountFollowsHeaderCommands : Obligations.MountFollowsHeaderCommands := by
  intro i s t h
  refine ⟨?_, ?_, fun hld hclr hval => (exec_hostKept h hld hclr hval).mounted⟩
  · rintro (rfl | rfl)
    · exact (execHld_host h).2
    · obtain rfl := Host.Outcome.next.inj h
      rfl
  · rintro rfl
    exact (execHval_host h).2

/-! ### The bounds of the open File (R52) -/

/-- `4 <= cursor <= len` (R52). -/
def FileInBounds (f : File) : Prop := 4 ≤ f.cursor ∧ f.cursor ≤ f.len

/-- A File, if there is one, is in bounds. -/
def FilesInBounds (file : Option File) : Prop := ∀ f, file = some f → FileInBounds f

theorem filesInBounds_none : FilesInBounds none := nofun

theorem filesInBounds_some {f : File} (hf : FileInBounds f) : FilesInBounds (some f) := by
  rintro _ ⟨⟩
  exact hf

/-- Every File a program gives the host is in bounds. -/
def Prog.KeepsBounds {α : Type} : Prog α → Prop
  | .command _ k => ∀ r, (k r).KeepsBounds
  | .keep f p => FilesInBounds f ∧ p.KeepsBounds
  | .unmount p => p.KeepsBounds
  | _ => True

theorem Prog.KeepsBounds.andThen {α β : Type} {x : Prog α} {f : α → Prog β} (hx : x.KeepsBounds)
    (hf : ∀ a, (f a).KeepsBounds) : (x.andThen f).KeepsBounds := by
  induction x with
  | ret a => exact hf a
  | command i k ih => exact fun r => ih r (hx r)
  | keep g p ih => exact ⟨hx.1, ih hx.2⟩
  | unmount p ih => exact ih hx
  | fail | refuse | abort => trivial

/-- What is left of a program keeps the bounds if the program does. -/
theorem Prog.KeepsBounds.after {α : Type} {p : Prog α} (hp : p.KeepsBounds) (rs : List (Word × Word)) :
    (p.after rs).KeepsBounds := by
  induction p generalizing rs with
  | command i k ih =>
    cases rs with
    | nil => exact hp
    | cons r rs => exact ih r (hp r) rs
  | keep g p ih =>
    cases rs with
    | nil => exact hp
    | cons r rs => exact ih hp.2 (r :: rs)
  | unmount p ih =>
    cases rs with
    | nil => exact hp
    | cons r rs => exact ih hp (r :: rs)
  | ret | fail | refuse | abort => cases rs <;> trivial

theorem issue_keepsBounds (i : Instr) : (issue i).KeepsBounds := fun _ => trivial

theorem issueOnly_keepsBounds (i : Instr) : (issue_ i).KeepsBounds := fun _ => trivial

theorem issueSel_keepsBounds (blk : Nat) : (issueSel blk).KeepsBounds := fun _ => trivial

theorem issueVmod_keepsBounds (off len : Nat) : (issueVmod off len).KeepsBounds := fun _ => trivial

theorem storePrefix_keepsBounds (n : Nat) : (storePrefix n).KeepsBounds := fun _ => trivial

theorem loadPrefix_keepsBounds : loadPrefix.KeepsBounds := fun _ => trivial

theorem copyOut_keepsBounds (off n : Nat) : (copyOut off n).KeepsBounds := by
  induction n generalizing off with
  | zero => trivial
  | succ n ih => exact (issue_keepsBounds _).andThen fun _ => (ih (off + 1)).andThen fun _ => trivial

theorem copyIn_keepsBounds (off : Nat) (bs : List Byte) : (copyIn off bs).KeepsBounds := by
  induction bs generalizing off with
  | nil => trivial
  | cons b bs ih => exact (issueOnly_keepsBounds _).andThen fun _ => ih (off + 1)

/-! The sequences of the File handle (R220 to R231) -/

theorem fileCreate_keepsBounds (start stop : Nat) : (fileCreate start stop).KeepsBounds :=
  (issueSel_keepsBounds start).andThen fun _ => (issueOnly_keepsBounds _).andThen fun _ =>
    (issueOnly_keepsBounds _).andThen fun _ => ⟨filesInBounds_some ⟨le_refl 4, le_refl 4⟩, trivial⟩

theorem fileOpen_keepsBounds (start stop : Nat) : (fileOpen start stop).KeepsBounds := by
  refine (issueSel_keepsBounds start).andThen fun _ => (issueOnly_keepsBounds _).andThen fun _ =>
    loadPrefix_keepsBounds.andThen fun n => ?_
  split
  · trivial
  · exact ⟨filesInBounds_some ⟨le_refl 4, Nat.le_add_left 4 n⟩, trivial⟩

theorem fileSeek_keepsBounds (whence : Whence) (n : Int) (f : File) : (fileSeek whence n f).KeepsBounds := by
  unfold fileSeek
  split
  · trivial
  · rename_i h
    refine ⟨filesInBounds_some ?_, trivial⟩
    show 4 ≤ (seekTarget f whence n).toNat ∧ (seekTarget f whence n).toNat ≤ f.len
    have : ((lenBytes : Nat) : Int) = 4 := rfl
    omega

theorem fileFetch_keepsBounds {f : File} (hf : FileInBounds f) (c : Nat) {w : Nat} (hw : f.cursor + w ≤ f.len) :
    (fileFetch f c w).KeepsBounds :=
  (issueOnly_keepsBounds _).andThen fun _ => (issueOnly_keepsBounds _).andThen fun _ =>
    (copyOut_keepsBounds _ w).andThen fun _ => ⟨filesInBounds_some ⟨Nat.le_add_right_of_le hf.1, hw⟩, trivial⟩

theorem fileRead_keepsBounds {f : File} (hf : FileInBounds f) (slots n : Nat) : (fileRead slots n f).KeepsBounds := by
  unfold fileRead
  dsimp only
  split
  · trivial
  · have := hf.2
    exact fileFetch_keepsBounds hf _ (by omega)

theorem fileReadExact_keepsBounds {f : File} (hf : FileInBounds f) (slots n : Nat) :
    (fileReadExact slots n f).KeepsBounds := by
  unfold fileReadExact
  split
  · trivial
  · split
    · trivial
    · split
      · trivial
      · exact fileFetch_keepsBounds hf _ (by omega)

/-- A write raises `len` before it moves the cursor (R227). -/
theorem writeRaised_inBounds {f : File} (hf : FileInBounds f) (n : Nat) :
    FileInBounds (writeRaised f n) ∧ (writeRaised f n).cursor + n ≤ (writeRaised f n).len := by
  obtain ⟨hlow, hhigh⟩ := hf
  unfold writeRaised
  split
  · exact ⟨⟨hlow, Nat.le_add_right f.cursor n⟩, le_refl _⟩
  · exact ⟨⟨hlow, hhigh⟩, show f.cursor + n ≤ f.len by omega⟩

theorem fileStore_keepsBounds {buf : List Byte} {f : File} (hf : FileInBounds f)
    (hbuf : f.cursor + buf.length ≤ f.len) : (fileStore buf f).KeepsBounds := by
  refine (issueSel_keepsBounds _).andThen fun c => .andThen ?_ fun _ => (copyIn_keepsBounds _ _).andThen fun _ =>
    (issueOnly_keepsBounds _).andThen fun _ => ⟨filesInBounds_some ⟨Nat.le_add_right_of_le hf.1, ?_⟩, trivial⟩
  · split
    · trivial
    · exact issueOnly_keepsBounds _
  · have := Nat.min_le_left buf.length (512 * c - f.cursor % 512)
    show f.cursor + min buf.length (512 * c - f.cursor % 512) ≤ f.len
    omega

theorem fileWrite_keepsBounds {f : File} (hf : FileInBounds f) (buf : List Byte) : (fileWrite buf f).KeepsBounds := by
  obtain ⟨hraised, hbuf⟩ := writeRaised_inBounds hf buf.length
  unfold fileWrite
  split
  · trivial
  · split
    · trivial
    · exact ⟨filesInBounds_some hraised, fileStore_keepsBounds hraised hbuf⟩

theorem rewritePrefix_keepsBounds {f : File} (hf : FileInBounds f) : (rewritePrefix f).KeepsBounds := by
  have hkeep : FilesInBounds (some { f with resized := false }) := filesInBounds_some hf
  exact (issueSel_keepsBounds f.start).andThen fun _ => (issueOnly_keepsBounds .vrd).andThen fun _ =>
    (storePrefix_keepsBounds _).andThen fun _ => (issueVmod_keepsBounds 0 4).andThen fun _ => ⟨hkeep, trivial⟩

theorem fileFlush_keepsBounds {f : File} (hf : FileInBounds f) : (fileFlush f).KeepsBounds := by
  unfold fileFlush
  refine Prog.KeepsBounds.andThen ?_ fun _ => (issueOnly_keepsBounds .flush).andThen fun _ => ?_
  · split
    · exact rewritePrefix_keepsBounds hf
    · trivial
  · exact ⟨filesInBounds_some (f := { f with resized := false, unflushed := false }) hf, trivial⟩

theorem fileDiscard_keepsBounds (debugChecks : Bool) (f : File) : (fileDiscard debugChecks f).KeepsBounds := by
  unfold fileDiscard
  split
  · trivial
  · exact ⟨filesInBounds_none, trivial⟩

/-! The sequences of the Filesystem (R250 to R260) -/

theorem namesFrom_keepsBounds (j left : Nat) : (namesFrom j left).KeepsBounds := by
  induction left generalizing j with
  | zero => trivial
  | succ left ih =>
    rw [namesFrom]
    -- otherwise Lean compares the programs by unrolling the sixteen loads of a name
    generalize 16 = n
    exact (issue_keepsBounds _).andThen fun _ => (copyOut_keepsBounds _ n).andThen fun _ =>
      (ih (j + 1)).andThen fun _ => trivial

theorem findModel_keepsBounds (id j left : Nat) : (findModel id j left).KeepsBounds := by
  induction left generalizing j with
  | zero => trivial
  | succ left ih =>
    refine (issue_keepsBounds _).andThen fun w => ?_
    split
    · trivial
    · exact ih (j + 1)

theorem fsReadConfig_keepsBounds : fsReadConfig.KeepsBounds := by
  refine (issueSel_keepsBounds _).andThen fun _ => (issueOnly_keepsBounds _).andThen fun _ =>
    loadPrefix_keepsBounds.andThen fun n => ?_
  split
  · trivial
  · exact (copyOut_keepsBounds 4 n).andThen fun _ => trivial

theorem fsWriteConfig_keepsBounds (bytes : List Byte) : (fsWriteConfig bytes).KeepsBounds := by
  unfold fsWriteConfig
  split
  · trivial
  · exact (issueSel_keepsBounds _).andThen fun _ => (issueOnly_keepsBounds _).andThen fun _ =>
      (copyIn_keepsBounds 4 bytes).andThen fun _ => (issueOnly_keepsBounds _).andThen fun _ => trivial

theorem fsModelNames_keepsBounds : fsModelNames.KeepsBounds :=
  (issueOnly_keepsBounds _).andThen fun _ => (issueOnly_keepsBounds _).andThen fun _ =>
    (issue_keepsBounds _).andThen fun _ => (namesFrom_keepsBounds 0 _).andThen fun _ => trivial

theorem fsModel_keepsBounds (id : Nat) : (fsModel id).KeepsBounds := by
  refine (issue_keepsBounds _).andThen fun _ => (findModel_keepsBounds id 0 _).andThen fun found => ?_
  cases found with
  | none => trivial
  | some w => exact fileOpen_keepsBounds _ _

theorem fsNewModel_keepsBounds (name : List Byte) : (fsNewModel name).KeepsBounds := by
  unfold fsNewModel
  split
  · trivial
  · exact (issue_keepsBounds _).andThen fun _ => (issueSel_keepsBounds _).andThen fun _ =>
      (issueOnly_keepsBounds _).andThen fun _ => (copyIn_keepsBounds _ _).andThen fun _ =>
        (issueOnly_keepsBounds _).andThen fun _ => (issueOnly_keepsBounds _).andThen fun _ => fileCreate_keepsBounds _ _

theorem fsDeleteModel_keepsBounds (id : Nat) : (fsDeleteModel id).KeepsBounds := by
  refine (issue_keepsBounds _).andThen fun r => ?_
  split
  · trivial
  · exact (issueOnly_keepsBounds _).andThen fun _ => trivial

theorem withFile_keepsBounds {file : Option File} {k : File → Prog HostResult} (hfile : FilesInBounds file)
    (hk : ∀ f, FileInBounds f → (k f).KeepsBounds) : (withFile file k).KeepsBounds := by
  cases file with
  | none => trivial
  | some f => exact hk f (hfile f rfl)

theorem withNoFile_keepsBounds (file : Option File) {p : Prog HostResult} (hp : p.KeepsBounds) :
    (withNoFile file p).KeepsBounds := by
  cases file with
  | none => exact hp
  | some f => trivial

/-- Every host sequence keeps the bounds of the File it is called on and of the one it opens (R52). -/
theorem program_keepsBounds {file : Option File} (hfile : FilesInBounds file) (q : HostSeq) (slots : Nat)
    (debugChecks : Bool) : (program q file slots debugChecks).KeepsBounds := by
  cases q with
  | fileCreate start stop => exact withNoFile_keepsBounds file (fileCreate_keepsBounds start stop)
  | fileOpen start stop => exact withNoFile_keepsBounds file (fileOpen_keepsBounds start stop)
  | fileLen => exact withFile_keepsBounds hfile fun _ _ => trivial
  | fileSeek whence n => exact withFile_keepsBounds hfile fun f _ => fileSeek_keepsBounds whence n f
  | fileRead n => exact withFile_keepsBounds hfile fun _ hf => fileRead_keepsBounds hf slots n
  | fileReadExact n => exact withFile_keepsBounds hfile fun _ hf => fileReadExact_keepsBounds hf slots n
  | fileWrite buf => exact withFile_keepsBounds hfile fun _ hf => fileWrite_keepsBounds hf buf
  | fileTruncate =>
    exact withFile_keepsBounds hfile fun f hf => ⟨filesInBounds_some ⟨hf.1, le_refl f.cursor⟩, trivial⟩
  | fileFlush => exact withFile_keepsBounds hfile fun _ hf => fileFlush_keepsBounds hf
  | fileClose =>
    exact withFile_keepsBounds hfile fun _ hf => (fileFlush_keepsBounds hf).andThen fun _ => ⟨filesInBounds_none, trivial⟩
  | fileDiscard => exact withFile_keepsBounds hfile fun f _ => fileDiscard_keepsBounds debugChecks f
  | fsNew =>
    exact withNoFile_keepsBounds file ((issueOnly_keepsBounds _).andThen fun _ =>
      (issueOnly_keepsBounds _).andThen fun _ => trivial)
  | fsNewEmpty =>
    exact withNoFile_keepsBounds file ((issueOnly_keepsBounds _).andThen fun _ => (issueOnly_keepsBounds _).andThen fun _ =>
      (issueOnly_keepsBounds _).andThen fun _ => (issueOnly_keepsBounds _).andThen fun _ => trivial)
  | fsReadConfig => exact withNoFile_keepsBounds file fsReadConfig_keepsBounds
  | fsWriteConfig bytes => exact withNoFile_keepsBounds file (fsWriteConfig_keepsBounds bytes)
  | fsModelNames => exact withNoFile_keepsBounds file fsModelNames_keepsBounds
  | fsModel id => exact withNoFile_keepsBounds file (fsModel_keepsBounds id)
  | fsNewModel name => exact withNoFile_keepsBounds file (fsNewModel_keepsBounds name)
  | fsDeleteModel id => exact withNoFile_keepsBounds file (fsDeleteModel_keepsBounds id)
  | fsFlush => exact withNoFile_keepsBounds file ((issueOnly_keepsBounds _).andThen fun _ => trivial)
  | fsDispose => exact withNoFile_keepsBounds file trivial

/-! Running a sequence -/

/-- A launched descriptor leaves the open File alone, legal or not. -/
theorem runCommand_file {s t : State} (h : s.runCommand = .next t) : t.file = s.file := by
  unfold State.runCommand at h
  split at h
  · exact exec_file h
  · cases h
    rfl

/-- A reset keeps the host's File (log entry 18). -/
theorem performReset_file (s : State) : s.performReset.file = s.file := by
  show s.withdrawAny.file = s.file
  unfold State.withdrawAny
  split
  · exact (withdraw_same s _).file
  · rfl

theorem writeCtrl_file (s : State) (v : Word) : (s.writeCtrl v).file = s.file := by
  unfold State.writeCtrl
  split
  · exact performReset_file s
  · split
    · split
      · exact (withdraw_same s _).file
      · rfl
    · rfl

theorem busWrite_file {s t : State} {width off : Nat} {v : Word} (h : s.busWrite width off v = .next t) :
    t.file = s.file := by
  rcases busWrite_cases h with ⟨_, _, _, _, _, rfl⟩ | ⟨-, hrun⟩ | ⟨-, -, rfl⟩
  · rfl
  · exact runCommand_file (s := s.launch v) hrun
  · exact writeCtrl_file s v

/-- A command a host sequence issues leaves the open File alone: only the sequence itself changes it (R52). -/
theorem issueCommand_file {s t : State} {i : Instr} (h : s.issueCommand i = .next t) : t.file = s.file := by
  obtain ⟨u, hu⟩ := busWrite_next s 4 0x04 (encode i).cmd1
  obtain ⟨v, hv⟩ := busWrite_next u 4 0x08 (encode i).cmd2
  simp only [State.issueCommand, hu, hv, afterStore_next] at h
  rw [busWrite_file h, busWrite_file hv, busWrite_file hu]

/-- A program that keeps the bounds leaves the host a File in bounds. -/
theorem runProg_file {q : HostSeq} {file : Option File} (p : Prog HostResult) :
    ∀ (results : List (Word × Word)) (s t : State), p.KeepsBounds → FilesInBounds s.file →
      runProg q file p results s = .next t → FilesInBounds t.file := by
  induction p with
  | ret r =>
    rintro _ s _ - hs ⟨⟩
    exact hs
  | fail e =>
    rintro _ s _ - hs ⟨⟩
    exact hs
  | refuse r => exact fun _ _ _ _ _ h => nomatch h
  | abort f => exact fun _ _ _ _ _ h => nomatch h
  | command i k ih =>
    intro results s t hp hs h
    obtain ⟨u, hu⟩ := issueCommand_next s i
    have hfile : FilesInBounds u.file := (issueCommand_file hu).symm ▸ hs
    simp only [runProg, hu, afterStore_next] at h
    rcases commandEnd_cases u q (.next (u.hostWaits ⟨q, file, results⟩))
      (fun r => runProg q file (k r) (results ++ [r]) u) with ⟨-, hc⟩ | ⟨-, -, hc⟩ | ⟨-, -, hc⟩ <;> rw [hc] at h
    · cases h
      exact hfile
    · exact ih _ _ _ _ (hp _) hfile h
    · cases h
      exact hfile
  | keep f p ih => exact fun results s t hp _ h => ih results (s.setFile f) t hp.2 hp.1 h
  | unmount p ih => exact fun results s t hp hs h => ih results s.dispose t hp hs h

theorem fileOk_iff (s : State) :
    fileOk s ↔ FilesInBounds s.file ∧ ∀ j, s.job = some j → FilesInBounds j.file := by
  constructor
  · exact fun h => ⟨fun f hf => h f (.inl hf), fun j hj f hf => h f (.inr ⟨j, hj, hf⟩)⟩
  · rintro ⟨hfile, hjob⟩ f (hf | ⟨j, hj, hf⟩)
    · exact hfile f hf
    · exact hjob j hj f hf

theorem fileOk_congr {s t : State} (hfile : t.file = s.file) (hjob : t.job = s.job) (h : fileOk s) : fileOk t := by
  rw [fileOk_iff] at h ⊢
  rwa [hfile, hjob]

/-- What is left of a sequence that was called on `file` leaves a File in bounds, and so does its suspension. -/
theorem runProg_fileOk {q : HostSeq} {file : Option File} {p : Prog HostResult} {results : List (Word × Word)} {s t : State}
    (hp : p.KeepsBounds) (hfile : FilesInBounds file) (hs : FilesInBounds s.file)
    (h : runProg q file p results s = .next t) : fileOk t := by
  refine (fileOk_iff t).mpr ⟨runProg_file p results s t hp hs h, fun j hj => ?_⟩
  rcases runProg_job p results s t h with hnone | ⟨_, _, -, hsome, -⟩
  · rw [hnone] at hj
    cases hj
  · obtain rfl := Option.some.inj (hsome.symm.trans hj)
    exact hfile

theorem call_fileOk {s t : State} {q : HostSeq} (hs : fileOk s) (h : s.call q = .next t) : fileOk t := by
  obtain ⟨hfile, -⟩ := (fileOk_iff s).mp hs
  unfold State.call at h
  split at h
  · cases h
  · exact runProg_fileOk (program_keepsBounds hfile q _ _) hfile hfile h

theorem continueSequence_fileOk {s t : State} (hs : fileOk s) (h : s.continueSequence = .next t) : fileOk t := by
  obtain ⟨hfile, hjob⟩ := (fileOk_iff s).mp hs
  cases hj : s.job with
  | none =>
    rw [continueSequence_none hj] at h
    cases h
    exact hs
  | some j =>
    have hjfile := hjob j hj
    simp only [State.continueSequence, hj] at h
    rcases commandEnd_cases s j.seq (.next s)
      (fun r => runProg j.seq j.file (continuation j s r) (j.results ++ [r]) s) with ⟨-, hc⟩ | ⟨-, -, hc⟩ | ⟨-, -, hc⟩ <;>
      rw [hc] at h
    · cases h
      exact hs
    · exact runProg_fileOk ((program_keepsBounds hjfile _ _ _).after _) hjfile hfile h
    · cases h
      exact (fileOk_iff _).mpr ⟨hfile, nofun⟩

/-- A command that goes on when its wait ends leaves the open File alone. -/
theorem resume_file (c : Cont) (s : State) : (resume c s).file = s.file := by
  have hslots {t u : State} (h : HostKept s t) (k : HostKept t u) := (h.trans k).file
  cases c with
  | select base cnt start j left =>
    exact hslots ((setSlot_hostKept s j _).trans (setSlot_hostKept _ j _)) (constructLoop_hostKept _ _ _ _ _ _)
  | fillWrite j left =>
    exact hslots ((setSlot_hostKept s j _).trans (setSlot_hostKept _ j _))
      (await_hostKept fun u => (setSlot_hostKept u j _).trans (fillLoop_hostKept _ _ _))
  | fillRead j left => exact hslots (setSlot_hostKept s j _) (fillLoop_hostKept _ _ _)
  | flush i r fuel runs blocks => exact hslots (cleanRun_hostKept s i r) (flushLoop_hostKept _ _ _ _ _)
  | headerLoad => rfl
  | headerStore c => rfl

theorem settle_fileOk {s t : State} {r : Request} {rep : Reply} (hs : fileOk s) (hr : s.reply r = some (rep, t)) :
    fileOk (settle rep { t with seq := .run } (resume r.cont)) := by
  have ht : fileOk { t with seq := .run } := fileOk_congr (reply_same hr).file (reply_same hr).job hs
  cases rep with
  | ok => exact fileOk_congr (resume_file r.cont _) ((resume_part r.cont).job _) ht
  | err e => exact ht
  | cancelled => exact ht

/-- A launched descriptor leaves a suspended sequence alone, legal or not. -/
theorem runCommand_job {s t : State} (h : s.runCommand = .next t) : t.job = s.job := by
  obtain ⟨k, hk, hrun⟩ := runCommand_part s.descriptor
  obtain rfl := Host.Outcome.next.inj ((hrun s rfl).symm.trans h)
  exact hk.job s

/-- Settles O20: commands leave the File alone (`exec_file`), and the programs of host sequences keep its bounds
(`program_keepsBounds`). -/
theorem stepKeepsFileBounds : Obligations.StepKeepsFileBounds := by
  intro s t hs h
  rcases step_cases s with ⟨r, rep, u, -, hr, hstep⟩ | ⟨hnone, hstep⟩ <;> rw [hstep] at h
  · exact continueSequence_fileOk (settle_fileOk hs hr) h
  · rcases takeInput_cases hnone h with ⟨_, _, _, _, _, rfl⟩ | ⟨x, rest, -, ⟨-, rfl⟩ | ⟨-, v, hrun⟩ | ⟨q, -, hcall⟩⟩
    · exact hs
    · exact (fileOk_iff _).mpr ⟨(performReset_file _).symm ▸ ((fileOk_iff s).mp hs).1, nofun⟩
    · exact fileOk_congr (runCommand_file hrun) (runCommand_job hrun) hs
    · exact call_fileOk (s := { s with inputs := rest }) hs hcall

/-! ### The view (R25, R26) -/

theorem viewOk_of_tags {s t : State} (hcount : t.slots.length = s.slots.length) (hview : t.view = s.view)
    (htags : ∀ j, (t.slot j).valid = true → (s.slot j).valid = true ∧ (t.slot j).tag = (s.slot j).tag) (hs : s.ViewOk) :
    t.ViewOk := by
  intro hv
  rw [hview] at hv ⊢
  obtain ⟨⟨h1, h2, h3⟩, hw⟩ := hs hv
  refine ⟨⟨h1, hcount.symm ▸ h2, h3⟩, fun q hq hvalid => ?_⟩
  obtain ⟨hvalid, htag⟩ := htags _ hvalid
  rw [htag]
  exact hw q hq hvalid

/-- A valid slot of the view caches the block it must hold (R26). -/
theorem caches_of_viewOk {s : State} (hs : s.ViewOk) (hv : s.view.valid = true) {j : Nat} (hlow : s.view.base ≤ j)
    (hhigh : j < s.view.base + s.view.cnt) (hvalid : (s.slot j).valid = true) : s.caches j (s.need j) = true := by
  obtain ⟨-, htags⟩ := hs hv
  obtain ⟨q, rfl⟩ := Nat.exists_eq_add_of_le hlow
  rw [caches_iff, State.need, Nat.add_sub_cancel_left]
  exact ⟨hvalid, htags q (by omega) hvalid⟩

/-- Slot `q` of the view tagged to its block (R140, R141). -/
theorem viewOk_tagSlot {s : State} (hs : s.ViewOk) (hv : s.view.valid = true) {q : Nat} (hq : q < s.view.cnt) (d : Bool) :
    (s.tagSlot (s.view.base + q) (blockPlus s.view.start q) d).ViewOk := by
  obtain ⟨⟨h1, h2, h3⟩, hw⟩ := hs hv
  have hslot := slot_tagSlot s (i := s.view.base + q) (by omega) (blockPlus s.view.start q) d
  refine fun _ => ⟨⟨h1, (setSlot_length _ _ _).symm ▸ h2, h3⟩, fun p hp hvalid => ?_⟩
  rw [State.tagSlot, setSlot_view] at hp hvalid ⊢
  rw [State.tagSlot] at hslot
  rw [hslot] at hvalid ⊢
  by_cases hpq : s.view.base + p = s.view.base + q
  · rw [if_pos hpq]
    obtain rfl : p = q := by omega
    exact Nat.mod_eq_of_lt (by omega)
  · rw [if_neg hpq] at hvalid ⊢
    exact hw p hp hvalid

/-- The part of `VRD` still to come, from slot `j` on (R140). -/
structure Filling (s : State) (left j : Nat) : Prop where
  viewOk : s.ViewOk
  valid : s.view.valid = true
  low : s.view.base ≤ j
  rest : j + left = s.view.base + s.view.cnt

theorem Filling.inView {s : State} {left j : Nat} (h : Filling s (left + 1) j) : j < s.view.base + s.view.cnt := by
  have := h.rest
  omega

theorem Filling.next {s : State} {left j : Nat} (h : Filling s (left + 1) j) : Filling s left (j + 1) :=
  ⟨h.viewOk, h.valid, Nat.le_succ_of_le h.low, by have := h.rest; omega⟩

/-- A slot `VRD` has to fill is Empty (R140, C13). -/
theorem Filling.empty {s : State} {left j : Nat} (h : Filling s (left + 1) j) (hc : ¬ s.caches j (s.need j) = true) :
    (s.slot j).valid = false :=
  Bool.eq_false_iff.mpr fun hvalid => hc (caches_of_viewOk h.viewOk h.valid h.low h.inView hvalid)

theorem Filling.invalidateSlot {s : State} {left j : Nat} (h : Filling s left j) (i : Nat) :
    Filling (s.invalidateSlot i) left j where
  viewOk := by
    refine viewOk_of_tags (setSlot_length _ _ _) rfl (fun k hk => ?_) h.viewOk
    rw [slot_invalidateSlot] at hk ⊢
    split at hk
    · cases hk
    · rename_i hki
      rw [if_neg hki]
      exact ⟨hk, rfl⟩
  valid := h.valid
  low := h.low
  rest := h.rest

theorem Filling.of_same {s t : State} {left j : Nat} (h : Filling s left j) (hst : SameButBuffers s t) :
    Filling t left j where
  viewOk := viewOk_of_tags hst.count hst.view (fun k hk => ⟨(hst.tags k).1 ▸ hk, (hst.tags k).2.1⟩) h.viewOk
  valid := hst.view.symm ▸ h.valid
  low := hst.view.symm ▸ h.low
  rest := hst.view.symm ▸ h.rest

/-- The fill of slot `j` is the tagging of its slot of the view. -/
theorem filled_eq_tagSlot {s : State} {j : Nat} (hlow : s.view.base ≤ j) :
    s.filled j = s.tagSlot (s.view.base + (j - s.view.base)) (blockPlus s.view.start (j - s.view.base)) false := by
  rw [Nat.add_sub_cancel' hlow]
  rfl

theorem Filling.filled {s : State} {left j : Nat} (h : Filling s (left + 1) j) : Filling (s.filled j) left (j + 1) where
  viewOk := by
    rw [filled_eq_tagSlot h.low]
    exact viewOk_tagSlot h.viewOk h.valid (by have := h.inView; have := h.low; omega) false
  valid := h.valid
  low := Nat.le_succ_of_le h.low
  rest := h.next.rest

/-! ### Dirty data is written before it is dropped (R24, R71, R77) -/

/-- Every slot that was dirty is as it was, or its data has been written with success among the transactions ended since. -/
structure Keeps (s t : State) : Prop where
  log : s.devLog <+: t.devLog
  dirty : ∀ i, s.dirtyAt i = true → t.slot i = s.slot i ∨ ∃ txn ∈ newTxns s t, s.wroteBack i txn

theorem newTxns_eq {s t : State} {txns : List Txn} (h : t.devLog = s.devLog ++ txns) : newTxns s t = txns := by
  rw [newTxns, h, List.drop_left]

theorem newTxns_append {s t u : State} (hst : s.devLog <+: t.devLog) (htu : t.devLog <+: u.devLog) :
    newTxns s u = newTxns s t ++ newTxns t u := by
  obtain ⟨xs, hxs⟩ := hst
  obtain ⟨ys, hys⟩ := htu
  rw [newTxns_eq hxs.symm, newTxns_eq hys.symm,
    newTxns_eq (txns := xs ++ ys) (by rw [← hys, ← hxs, List.append_assoc])]

theorem Keeps.of_slots {s t : State} (hslots : t.slots = s.slots) (hlog : t.devLog = s.devLog) : Keeps s t :=
  ⟨hlog ▸ List.prefix_rfl, fun i _ => .inl (slot_congr hslots i)⟩

theorem Keeps.trans {s t u : State} (hst : Keeps s t) (htu : Keeps t u) : Keeps s u where
  log := hst.log.trans htu.log
  dirty i hi := by
    rw [newTxns_append hst.log htu.log]
    rcases hst.dirty i hi with ht | ⟨txn, hmem, hw⟩
    · have hi' : t.dirtyAt i = true := by rwa [State.dirtyAt, ht]
      rcases htu.dirty i hi' with hu | ⟨txn, hmem, hw⟩
      · exact .inl (hu.trans ht)
      · refine .inr ⟨txn, List.mem_append_right _ hmem, ?_⟩
        rwa [State.wroteBack, ht] at hw
    · exact .inr ⟨txn, List.mem_append_left _ hmem, hw⟩

theorem Keeps.dirtyKept {s t : State} (h : Keeps s t) : dirtyKept s t := by
  intro i _ hi hdropped
  refine (h.dirty i hi).resolve_left fun ht => hdropped ⟨?_, by rw [ht]⟩
  rwa [State.dirtyAt, ht]

/-- A change of one slot that leaves it as it is if it is dirty. -/
theorem setSlot_keeps {s : State} {i : Nat} {sl : Slot} (h : s.dirtyAt i = true → sl = s.slot i) :
    Keeps s (s.setSlot i sl) where
  log := List.prefix_rfl
  dirty j hj := by
    refine .inl ?_
    rw [slot_setSlot]
    split
    · rename_i hji
      obtain ⟨rfl, -⟩ := hji
      exact h hj
    · rfl

/-- The end of a wait, successful or not: only a read changes a slot, and it fills an Empty one. -/
theorem reply_keeps {s t : State} {r : Request} {rep : Reply} (hr : s.reply r = some (rep, t))
    (hspares : ∀ j, s.dirtyAt j = true → r.Spares j) : Keeps s t where
  log := (reply_devLog hr).symm ▸ List.prefix_append _ _
  dirty j hj := .inl (reply_slot hr (hspares j hj))

/-- A suspension point keeps dirty data if its request does and what follows a success does. -/
theorem await_keeps {s : State} {r : Request} {k : State → State} (hspares : ∀ j, s.dirtyAt j = true → r.Spares j)
    (hk : ∀ t, s.reply r = some (.ok, t) → Keeps s (k t)) : Keeps s (s.await r k) := by
  rcases await_cases s r k with ⟨-, h⟩ | ⟨t, hr, h⟩ | ⟨t, e, hr, h⟩ | ⟨t, hr, h⟩ <;> rw [h]
  · exact .of_slots rfl rfl
  · exact hk t hr
  · exact (reply_keeps hr hspares).trans (.of_slots rfl rfl)
  · exact (reply_keeps hr hspares).trans (.of_slots rfl rfl)

theorem spares_of_write {r : Request} (hk : r.kind = .wr) (j : Nat) : r.Spares j := by
  intro h
  rw [hk] at h
  cases h

/-- A run is cleaned after its write has been acknowledged (R160): its slots' data is in the log. -/
theorem cleanRun_keeps {s t : State} {i n : Nat} {c : Cont} (hrun : s.IsRun i n)
    (hr : s.reply (s.runOf i n c) = some (.ok, t)) : Keeps s (t.cleanRun i n) where
  log := by
    rw [cleanRun_fields, reply_devLog hr]
    exact List.prefix_append _ _
  dirty j hj := by
    have hsame : t.slot j = s.slot j := reply_slot hr (spares_of_write rfl j)
    by_cases hin : i ≤ j ∧ j < i + n
    · obtain ⟨q, rfl⟩ := Nat.exists_eq_add_of_le hin.1
      have hq : q < n := by omega
      obtain ⟨-, -, hall⟩ := hrun
      have htag := (hall q hq).2
      have hnew : newTxns s (t.cleanRun i n) = [⟨.wr, (s.slot i).tag, n, s.source (s.runOf i n c), .ok⟩] :=
        newTxns_eq (by rw [cleanRun_fields]; exact reply_devLog hr)
      have hdata : (s.source (s.runOf i n c))[q]? = some (s.slot (i + q)).data := by simp [State.source, State.runOf, hq]
      refine .inr ⟨_, hnew ▸ List.mem_singleton_self _, rfl, rfl, htag ▸ Nat.le_add_right _ _, ?_⟩
      rwa [htag, Nat.add_sub_cancel_left]
    · rw [slot_cleanRun, if_neg hin]
      exact .inl hsame

/-- A slot is emptied after its write-back has been acknowledged (R121). -/
theorem writtenBack_keeps {s t : State} {j : Nat} {c : Cont} (hj : s.dirtyAt j = true)
    (hr : s.reply (s.writeBackOf j c) = some (.ok, t)) : Keeps s ((t.cleanSlot j).invalidateSlot j) := by
  have hclean : (t.cleanSlot j).dirtyAt j = false := by
    rw [State.dirtyAt, slot_cleanSlot, if_pos rfl]
    exact Bool.and_false _
  refine (cleanRun_keeps (isRun_one hj) hr).trans (setSlot_keeps fun h => ?_)
  rw [State.cleanRun, State.cleanRun, hclean] at h
  cases h

theorem invalidateSlot_keeps {s : State} {j : Nat} (hj : ¬ s.dirtyAt j = true) : Keeps s (s.invalidateSlot j) :=
  setSlot_keeps fun h => absurd h hj

/-- A selection keeps dirty data, from any slot on (R121). -/
theorem constructLoop_keeps (base cnt : Nat) (start : Word) (left j : Nat) (s : State) :
    Keeps s (constructLoop base cnt start left j s) := by
  induction left generalizing j s with
  | zero => exact .of_slots rfl rfl
  | succ left ih =>
    rw [constructLoop_succ]
    split
    · rename_i hm
      have hvalid := ((mismatched_iff s j _).mp hm).1
      split
      · rename_i hd
        exact await_keeps (fun k _ => spares_of_write rfl k) fun t hr =>
          (writtenBack_keeps ((dirtyAt_iff s j).mpr ⟨hvalid, hd⟩) hr).trans (ih (j + 1) _)
      · rename_i hd
        exact (invalidateSlot_keeps fun h => hd ((dirtyAt_iff s j).mp h).2).trans (ih (j + 1) _)
    · exact ih (j + 1) s

/-- `FLUSH` keeps dirty data, from any slot on (R160, R77). -/
theorem flushLoop_keeps (fuel i runs blocks : Nat) (s : State) : Keeps s (flushLoop fuel i runs blocks s) := by
  induction fuel generalizing i runs blocks s with
  | zero => exact .of_slots rfl rfl
  | succ fuel ih =>
    rw [flushLoop_succ]
    split
    · split
      · rename_i hd
        exact await_keeps (fun k _ => spares_of_write rfl k) fun t hr =>
          (cleanRun_keeps (runLength_isRun hd) hr).trans (ih _ _ _ _)
      · exact ih (i + 1) runs blocks s
    · exact .of_slots rfl rfl

/-- A slot that was Empty is filled: no other slot changes. -/
theorem filled_keeps {s : State} {j : Nat} (hj : (s.slot j).valid = false) : Keeps s (s.filled j) :=
  setSlot_keeps fun h => by
    rw [dirtyAt_of_empty hj] at h
    cases h

/-- `VRD` keeps dirty data, from any slot of a view on (R140). -/
theorem fillLoop_keeps (left j : Nat) (s : State) (h : Filling s left j) : Keeps s (fillLoop left j s) := by
  induction left generalizing j s with
  | zero => exact .of_slots rfl rfl
  | succ left ih =>
    rw [fillLoop_succ]
    split
    · exact ih (j + 1) s h.next
    · rename_i hc
      have hempty := h.empty hc
      have hclean := Bool.eq_false_iff.mp (dirtyAt_of_empty hempty)
      rw [if_neg hclean, refillFrom_eq]
      have hinvalid : ((s.invalidateSlot j).slot j).valid = false := by rw [slot_invalidateSlot, if_pos rfl]
      have hspares (k : Nat) (hk : (s.invalidateSlot j).dirtyAt k = true) :
          ((s.invalidateSlot j).fillOf j (.fillRead j left)).Spares k := by
        rintro - i hi
        obtain rfl : j = i := Buffer.slots.inj hi
        have hne : k ≠ j := by
          rintro rfl
          rw [dirtyAt_of_empty hinvalid] at hk
          cases hk
        show k < j ∨ j + 1 ≤ k
        omega
      refine (invalidateSlot_keeps hclean).trans (await_keeps hspares fun t hr => ?_)
      have hsame := reply_same hr
      have hfill : (t.slot j).valid = false := (hsame.tags j).1.trans hinvalid
      exact (reply_keeps hr hspares).trans
        ((filled_keeps hfill).trans (ih (j + 1) _ ((h.invalidateSlot j).of_same hsame).filled))

/-- A slot of the view that is dirty is tagged to its block already (R26), so that marking it changes nothing. -/
theorem markSlot_keeps {s : State} (hs : s.ViewOk) (hv : s.view.valid = true) {q : Nat} (hq : q < s.view.cnt) :
    Keeps s (s.markSlot q) :=
  setSlot_keeps fun hd => by
    obtain ⟨hvalid, hdirty⟩ := (dirtyAt_iff s _).mp hd
    obtain ⟨⟨-, -, hend⟩, htags⟩ := hs hv
    have htag : blockPlus s.view.start q = (s.slot (s.view.base + q)).tag := by
      apply BitVec.eq_of_toNat_eq
      rw [htags q hq hvalid]
      exact Nat.mod_eq_of_lt (by omega)
    rw [htag]
    revert hvalid hdirty
    generalize s.slot (s.view.base + q) = sl
    obtain ⟨valid, tag, dirty, data⟩ := sl
    rintro rfl rfl
    rfl

theorem markSlots_keeps {s : State} (hs : s.ViewOk) (hv : s.view.valid = true) {qs : List Nat}
    (hqs : ∀ q ∈ qs, q < s.view.cnt) : Keeps s (s.markSlots qs) := by
  induction qs generalizing s with
  | nil => exact .of_slots rfl rfl
  | cons q qs ih =>
    have hq := hqs q List.mem_cons_self
    exact (markSlot_keeps hs hv hq).trans
      (ih (viewOk_tagSlot hs hv hq true) hv fun p hp => hqs p (List.mem_cons_of_mem q hp))

theorem lt_of_mem_markedSlots {off len : Word} {n q : Nat} (h : q ∈ markedSlots off len n) : q < n :=
  List.mem_range.mp (List.mem_filter.mp h).1

/-- A change of data alone leaves every dirty slot dirty with its tag (R147). -/
theorem dirtyKept_of_tags {s t : State} (h : ∀ j, (t.slot j).valid = (s.slot j).valid ∧ (t.slot j).tag = (s.slot j).tag ∧
    (t.slot j).dirty = (s.slot j).dirty) : dirtyKept s t := by
  intro i _ hi hdropped
  obtain ⟨hvalid, htag, hdirty⟩ := h i
  exact absurd ⟨by rwa [State.dirtyAt, hvalid, hdirty], htag⟩ hdropped

/-- Every command keeps dirty data (R24). -/
theorem exec_dirtyKept {i : Instr} {s t : State} (hs : s.ViewOk) (h : exec i s = .next t) : dirtyKept s t := by
  have hdrop : Keeps s s.dropView := .of_slots rfl rfl
  cases exec_executes h with
  | reports h | mounts _ h =>
    obtain ⟨_, _, _, _, _, rfl⟩ := h
    exact (Keeps.of_slots rfl rfl).dirtyKept
  | sel start => exact (hdrop.trans (constructLoop_keeps _ _ _ _ _ _)).dirtyKept
  | selx len start => exact (hdrop.trans (constructLoop_keeps _ _ _ _ _ _)).dirtyKept
  | vrd hv => exact (fillLoop_keeps _ _ s ⟨hs, hv, le_refl _, rfl⟩).dirtyKept
  | vmod off len r0 hv =>
    exact ((markSlots_keeps hs hv fun q hq => lt_of_mem_markedSlots hq).trans (.of_slots rfl rfl)).dirtyKept
  | store j b => exact dirtyKept_of_tags (setSlotData_tags s j b)
  | flush => exact (hdrop.trans (flushLoop_keeps _ _ _ _ _)).dirtyKept
  | hld =>
    refine (Keeps.trans (t := { s with hdrValidated := false, mounted := false }) (.of_slots rfl rfl) ?_).dirtyKept
    refine await_keeps (fun _ _ _ i hi => nomatch hi) fun t hr => ?_
    exact (reply_keeps hr fun _ _ _ i hi => nomatch hi).trans (.of_slots rfl rfl)
  | hwb _ =>
    refine (Keeps.trans (t := { s with hdr := withChecksum s.cfg.crc s.hdr }) (.of_slots rfl rfl) ?_).dirtyKept
    refine await_keeps (fun k _ => spares_of_write rfl k) fun t hr => ?_
    exact (reply_keeps hr fun k _ => spares_of_write rfl k).trans (.of_slots rfl rfl)

/-- What is left of a command when its wait ends with success keeps dirty data (R24). -/
theorem resume_keeps {s u : State} {r : Request} (hs : s.ViewOk) (hr : s.RequestOk r) (h : s.reply r = some (.ok, u)) :
    Keeps s (resume r.cont u) := by
  have hreply : Keeps s u := reply_keeps h fun j hj => hr.spares hj
  cases hc : r.cont with
  | select base cnt start j left =>
    obtain ⟨-, -, -, -, -, hd, hreq⟩ := hr.select hc
    rw [hreq] at h
    exact (writtenBack_keeps hd h).trans (constructLoop_keeps _ _ _ _ _ _)
  | fillWrite j left => exact absurd hc hr.not_fillWrite
  | fillRead j left =>
    obtain ⟨hv, hlow, hrest, hempty, -⟩ := hr.fillRead hc
    have hfill : Filling s (left + 1) j := ⟨hs, hv, hlow, by omega⟩
    exact hreply.trans ((filled_keeps (((reply_same h).tags j).1.trans hempty)).trans
      (fillLoop_keeps _ _ _ (hfill.of_same (reply_same h)).filled))
  | flush i n fuel runs blocks =>
    obtain ⟨-, hrun, -, hreq⟩ := hr.flush hc
    rw [hreq] at h
    exact (cleanRun_keeps hrun h).trans (flushLoop_keeps _ _ _ _ _)
  | headerLoad => exact hreply.trans (.of_slots rfl rfl)
  | headerStore c => exact hreply.trans (.of_slots rfl rfl)

/-- A wait ends in the same way whatever the sequencer's state says of it. -/
theorem reply_run {s u : State} {r : Request} {rep : Reply} (h : s.reply r = some (rep, u)) :
    State.reply { s with seq := .run } r = some (rep, { u with seq := .run }) := by
  have hrun := reply_outside_self s r .run s.job s.hostResult
  have hu : u.outside .run u.inputs s.job s.hostResult = { u with seq := .run } := by
    rw [← (reply_same h).job, ← (reply_same h).hostResult]
    rfl
  rw [h, Option.map_some, hu] at hrun
  exact hrun

/-- The rest of a command, when its wait ends, keeps dirty data (R24). -/
theorem settle_dirtyKept {s u : State} {r : Request} {rep : Reply} (hs : s.ViewOk) (hr : s.RequestOk r)
    (h : s.reply r = some (rep, u)) : dirtyKept s (settle rep { u with seq := .run } (resume r.cont)) := by
  have hreply : Keeps s u := reply_keeps h fun j hj => hr.spares hj
  cases rep with
  | ok => exact (resume_keeps (s := { s with seq := .run }) hs hr (reply_run h)).dirtyKept
  | err e => exact (hreply.trans (.of_slots rfl rfl)).dirtyKept
  | cancelled => exact (hreply.trans (.of_slots rfl rfl)).dirtyKept

theorem State.SeqOk.requestOk {s : State} (h : s.SeqOk) {r : Request} (hs : s.seq = .wait r) :
    s.busy = true ∧ s.done = false ∧ s.RequestOk r := by
  simpa only [State.SeqOk, hs] using h

/-- A launched descriptor keeps dirty data, legal or not (R24, R95). -/
theorem runCommand_dirtyKept {s t : State} (hs : s.ViewOk) (h : s.runCommand = .next t) : dirtyKept s t := by
  unfold State.runCommand at h
  split at h
  · exact exec_dirtyKept hs h
  · cases h
    exact (Keeps.of_slots rfl rfl).dirtyKept

/-- Settles O19: the loops of the commands keep dirty data (`constructLoop_keeps`, `fillLoop_keeps`, `flushLoop_keeps`), from
their beginning and from where a wait ends. -/
theorem dirtyDataIsWrittenBeforeItIsDropped : Obligations.DirtyDataIsWrittenBeforeItIsDropped := by
  refine ⟨fun s t hs hjob hin h => ?_, fun i s t hs h => exec_dirtyKept hs h, fun s u r rep hs hseq hr =>
    settle_dirtyKept hs.viewOk (hs.seqOk.requestOk hseq).2.2 hr⟩
  rcases step_cases s with ⟨r, rep, u, hseq, hr, hstep⟩ | ⟨hnone, hstep⟩ <;> rw [hstep] at h
  · have hrequest := (hs.seqOk.requestOk hseq).2.2
    have hended : (settle rep { u with seq := .run } (resume r.cont)).job = none := by
      have hu : u.job = none := (reply_same hr).job.trans hjob
      cases rep with
      | ok => exact ((resume_part r.cont).job _).trans hu
      | err e => exact hu
      | cancelled => exact hu
    rw [continueSequence_none hended] at h
    cases h
    exact settle_dirtyKept hs.viewOk hrequest hr
  · rcases takeInput_cases hnone h with ⟨_, _, _, _, _, rfl⟩ | ⟨x, rest, hx, ⟨hreset, -⟩ | ⟨-, v, hrun⟩ | ⟨q, hcall, -⟩⟩
    · exact (Keeps.of_slots rfl rfl).dirtyKept
    · exact absurd hreset (hin x rest hx).1
    · exact runCommand_dirtyKept (s := State.launch { s with inputs := rest } v) hs.viewOk hrun
    · exact absurd hcall ((hin x rest hx).2 q)

/-! ### What a command needs of the slots, the view and the medium (R23, R25, R26, R55)

The statements below are about two invariants at once: `p` says whether tag uniqueness is claimed, which needs at most two
slots (R55). -/

/-- The invariants that hold while a command runs, too. -/
structure State.Core (p : Prop) (s : State) : Prop where
  slotCount : 1 ≤ s.slots.length ∧ s.slots.length ≤ 255
  params : s.cfg.valid = true
  checksum : DetectsFlips s.cfg.crc
  slotsOk : s.SlotsOk
  viewOk : s.ViewOk
  mediumOk : Memory.wf s.medium = true
  few : p → s.slots.length ≤ 2
  unique : p → s.TagsUnique
  viewAlone : p → s.view.valid = true → s.WindowAlone s.view.base s.view.cnt s.view.start

/-- From `s` to `t` slots may have become Empty or clean and the view invalid; no slot has been tagged. -/
structure Shrinks (s t : State) : Prop where
  cfg : t.cfg = s.cfg
  count : t.slots.length = s.slots.length
  view : t.view.valid = true → t.view = s.view
  valid : ∀ j, (t.slot j).valid = true → (s.slot j).valid = true ∧ (t.slot j).tag = (s.slot j).tag
  dirty : ∀ j, (t.slot j).dirty = true → (s.slot j).dirty = true ∧ ((s.slot j).valid = true → (t.slot j).valid = true)

theorem Shrinks.trans {s t u : State} (h : Shrinks s t) (k : Shrinks t u) : Shrinks s u where
  cfg := k.cfg.trans h.cfg
  count := k.count.trans h.count
  view hv := (k.view hv).trans (h.view (k.view hv ▸ hv))
  valid j hj := ⟨(h.valid j (k.valid j hj).1).1, (k.valid j hj).2.trans (h.valid j (k.valid j hj).1).2⟩
  dirty j hj := ⟨(h.dirty j (k.dirty j hj).1).1, fun hs => (k.dirty j hj).2 ((h.dirty j (k.dirty j hj).1).2 hs)⟩

theorem Shrinks.of_tags {s t : State} (hcfg : t.cfg = s.cfg) (hcount : t.slots.length = s.slots.length)
    (hview : t.view = s.view) (htags : ∀ j, (t.slot j).valid = (s.slot j).valid ∧ (t.slot j).tag = (s.slot j).tag ∧
      (t.slot j).dirty = (s.slot j).dirty) : Shrinks s t where
  cfg := hcfg
  count := hcount
  view _ := hview
  valid j hj := ⟨(htags j).1 ▸ hj, (htags j).2.1⟩
  dirty j hj := ⟨(htags j).2.2 ▸ hj, fun hs => (htags j).1.trans hs⟩

theorem Shrinks.of_slots {s t : State} (hcfg : t.cfg = s.cfg) (hslots : t.slots = s.slots) (hview : t.view = s.view) :
    Shrinks s t :=
  .of_tags hcfg (congrArg List.length hslots) hview fun j => by simp [slot_congr hslots j]

theorem SameButBuffers.shrinks {s t : State} (h : SameButBuffers s t) : Shrinks s t :=
  .of_tags h.cfg h.count h.view h.tags

theorem dropView_shrinks (s : State) : Shrinks s s.dropView :=
  ⟨rfl, rfl, nofun, fun _ hj => ⟨hj, rfl⟩, fun _ hj => ⟨hj, id⟩⟩

theorem cleanRun_shrinks (s : State) (i r : Nat) : Shrinks s (s.cleanRun i r) where
  cfg := (cleanRun_controllerOp r i).cfg s
  count := (cleanRun_controllerOp r i).count s
  view _ := by rw [cleanRun_fields]
  valid j hj := by
    rw [slot_cleanRun] at hj ⊢
    split at hj <;> rename_i hin
    · rw [if_pos hin]
      exact ⟨hj, rfl⟩
    · rw [if_neg hin]
      exact ⟨hj, rfl⟩
  dirty j hj := by
    rw [slot_cleanRun] at hj ⊢
    split at hj <;> rename_i hin
    · cases hj
    · rw [if_neg hin]
      exact ⟨hj, id⟩

/-- A clean slot is emptied. -/
theorem invalidateSlot_shrinks {s : State} {i : Nat} (hi : (s.slot i).dirty = false) : Shrinks s (s.invalidateSlot i) where
  cfg := rfl
  count := setSlot_length _ _ _
  view _ := rfl
  valid j hj := by
    rw [slot_invalidateSlot] at hj ⊢
    split at hj <;> rename_i hji
    · cases hj
    · rw [if_neg hji]
      exact ⟨hj, rfl⟩
  dirty j hj := by
    rw [slot_invalidateSlot] at hj ⊢
    split at hj <;> rename_i hji
    · rw [show (s.slot i).dirty = true from hj] at hi
      cases hi
    · rw [if_neg hji]
      exact ⟨hj, id⟩

/-- A slot is emptied after its write-back (R121). -/
theorem writtenBack_shrinks (s : State) (j : Nat) : Shrinks s ((s.cleanSlot j).invalidateSlot j) :=
  (cleanRun_shrinks s j 1).trans (invalidateSlot_shrinks (s := s.cleanSlot j) (by rw [slot_cleanSlot, if_pos rfl]))

theorem State.Core.shrink {p : Prop} {s t : State} (h : s.Core p) (hst : Shrinks s t)
    (hm : Memory.wf t.medium = true) : t.Core p where
  slotCount := hst.count.symm ▸ h.slotCount
  params := hst.cfg.symm ▸ h.params
  checksum := hst.cfg.symm ▸ h.checksum
  slotsOk j hj hd := (hst.dirty j hd).2 (h.slotsOk j (hst.count ▸ hj) (hst.dirty j hd).1)
  viewOk hv := viewOk_of_tags hst.count (hst.view hv) hst.valid h.viewOk hv
  mediumOk := hm
  few hp := hst.count.symm ▸ h.few hp
  unique hp i hi j hj hvi hvj htag :=
    h.unique hp i (hst.count ▸ hi) j (hst.count ▸ hj) (hst.valid i hvi).1 (hst.valid j hvj).1
      ((hst.valid i hvi).2.symm.trans (htag.trans (hst.valid j hvj).2))
  viewAlone hp hv i hi hout hvi := by
    have hview := hst.view hv
    rw [hview] at hv hout ⊢
    rw [(hst.valid i hvi).2]
    exact h.viewAlone hp hv i (hst.count ▸ hi) hout (hst.valid i hvi).1

theorem windowAlone_of_shrinks {s t : State} {base cnt : Nat} {start : Word} (h : s.WindowAlone base cnt start)
    (hst : Shrinks s t) : t.WindowAlone base cnt start := by
  intro i hi hout hvi
  rw [(hst.valid i hvi).2]
  exact h i (hst.count ▸ hi) hout (hst.valid i hvi).1

/-- With unique tags, a slot that caches block `q` of the view is slot `q` of the view. -/
theorem State.Core.eq_of_cachesView {p : Prop} {s : State} (h : s.Core p) (hp : p) (hv : s.view.valid = true) {i q : Nat}
    (hq : q < s.view.cnt) (hi : s.caches i (s.view.start.toNat + q) = true) : i = s.view.base + q := by
  obtain ⟨hvalid, htag⟩ := (caches_iff s i _).mp hi
  by_contra hne
  by_cases hin : s.view.base ≤ i ∧ i < s.view.base + s.view.cnt
  · have hneed := ((caches_iff s i _).mp (caches_of_viewOk h.viewOk hv hin.1 hin.2 hvalid)).2
    unfold State.need at hneed
    omega
  · exact h.viewAlone hp hv i (slot_lt_of_valid s hvalid) (by omega) hvalid ⟨by omega, by omega⟩

/-- Slot `q` of the view is tagged to its block (R140, R141). -/
theorem State.Core.tagSlot {p : Prop} {s : State} (h : s.Core p) (hv : s.view.valid = true) {q : Nat}
    (hq : q < s.view.cnt) (d : Bool) : (s.tagSlot (s.view.base + q) (blockPlus s.view.start q) d).Core p := by
  obtain ⟨⟨-, hin, hend⟩, -⟩ := h.viewOk hv
  have hcount : (s.tagSlot (s.view.base + q) (blockPlus s.view.start q) d).slots.length = s.slots.length :=
    setSlot_length _ _ _
  have hnew : (blockPlus s.view.start q).toNat = s.view.start.toNat + q := Nat.mod_eq_of_lt (by omega)
  have hsame := slot_tagSlot s (i := s.view.base + q) (by omega) (blockPlus s.view.start q) d
  exact
    { slotCount := hcount.symm ▸ h.slotCount
      params := h.params
      checksum := h.checksum
      viewOk := viewOk_tagSlot h.viewOk hv hq d
      mediumOk := h.mediumOk
      few := fun hp => hcount.symm ▸ h.few hp
      slotsOk := fun j hj hd => by
        rw [hsame] at hd ⊢
        split at hd <;> rename_i hj'
        · rw [if_pos hj']
        · rw [if_neg hj']
          exact h.slotsOk j (hcount ▸ hj) hd
      unique := fun hp i hi j hj hvi hvj htag => by
        have hother {k : Nat} (hk : (s.slot k).valid = true) (ht : (s.slot k).tag = blockPlus s.view.start q) :
            k = s.view.base + q :=
          h.eq_of_cachesView hp hv hq ((caches_iff s k _).mpr ⟨hk, ht ▸ hnew⟩)
        rw [hsame] at hvi hvj
        rw [hsame, hsame] at htag
        by_cases hi' : i = s.view.base + q <;> by_cases hj' : j = s.view.base + q
        · rw [hi', hj']
        · rw [if_pos hi', if_neg hj'] at htag
          rw [if_neg hj'] at hvj
          exact absurd (hother hvj htag.symm) hj'
        · rw [if_neg hi', if_pos hj'] at htag
          rw [if_neg hi'] at hvi
          exact absurd (hother hvi htag) hi'
        · rw [if_neg hi', if_neg hj'] at htag
          rw [if_neg hi'] at hvi
          rw [if_neg hj'] at hvj
          exact h.unique hp i (hcount ▸ hi) j (hcount ▸ hj) hvi hvj htag
      viewAlone := fun hp _ i hi hout hvi => by
        have hne : i ≠ s.view.base + q := by
          rintro rfl
          change s.view.base + q < s.view.base ∨ s.view.base + s.view.cnt ≤ s.view.base + q at hout
          omega
        rw [hsame, if_neg hne] at hvi ⊢
        exact h.viewAlone hp hv i (hcount ▸ hi) hout hvi }

theorem State.Core.markSlots {p : Prop} {s : State} (h : s.Core p) (hv : s.view.valid = true) {qs : List Nat}
    (hqs : ∀ q ∈ qs, q < s.view.cnt) : (s.markSlots qs).Core p := by
  induction qs generalizing s with
  | nil => exact h
  | cons q qs ih =>
    exact ih (h.tagSlot hv (hqs q List.mem_cons_self) true) hv fun k hk => hqs k (List.mem_cons_of_mem q hk)

/-! ### Where a command ends or waits -/

/-- What holds of a state in which a command has ended or waits: the invariants, but for what they say of a host sequence. -/
structure State.Rested (p : Prop) (s : State) : Prop where
  core : s.Core p
  seqOk : s.SeqOk
  selectAlone : p → ∀ r base cnt start j left, s.seq = .wait r → r.cont = .select base cnt start j left →
    s.WindowAlone base cnt start

/-- What holds of a state in which a command is in execution. -/
structure State.Live (p : Prop) (s : State) : Prop where
  core : s.Core p
  busy : s.busy = true
  done : s.done = false

theorem State.Live.shrink {p : Prop} {s t : State} (h : s.Live p) (hst : Shrinks s t) (hm : t.medium = s.medium)
    (hb : t.busy = s.busy) (hd : t.done = s.done) : t.Live p :=
  ⟨h.core.shrink hst (hm ▸ h.core.mediumOk), hb.trans h.busy, hd.trans h.done⟩

/-- A successful or failed transaction of a request that a command's rule issues. -/
theorem State.Live.reply {p : Prop} {s t : State} {r : Request} {rep : Reply} (h : s.Live p) (hr : s.RequestOk r)
    (ht : s.reply r = some (rep, t)) : t.Live p where
  core := h.core.shrink (reply_same ht).shrinks (reply_medium_wf ht hr.fits h.core.mediumOk)
  busy := (reply_same ht).busy.trans h.busy
  done := (reply_same ht).done.trans h.done

theorem State.Core.finish {p : Prop} {s : State} (h : s.Core p) (e : Err) (r0 r1 : Word) : (s.finish e r0 r1).Rested p where
  core := h.shrink (.of_slots rfl rfl rfl) h.mediumOk
  seqOk := rfl
  selectAlone := nofun

theorem State.Core.raiseIo {p : Prop} {s : State} (h : s.Core p) (code : Word) : (s.raiseIo code).Rested p where
  core := h.shrink (.of_slots rfl rfl rfl) h.mediumOk
  seqOk := rfl
  selectAlone := nofun

/-- The window that a suspended `SEL` or `SELX` selects stands alone for its blocks. -/
def State.ContAlone (s : State) (c : Cont) : Prop :=
  ∀ base cnt start j left, c = .select base cnt start j left → s.WindowAlone base cnt start

theorem State.Live.wait {p : Prop} {s : State} {r : Request} (h : s.Live p) (hr : s.RequestOk r)
    (ha : p → s.ContAlone r.cont) : State.Rested p { s with seq := .wait r } where
  core := h.core.shrink (.of_slots rfl rfl rfl) h.core.mediumOk
  seqOk := ⟨h.busy, h.done, hr⟩
  selectAlone hp r' base cnt start j left hr' hc := by
    obtain rfl : r = r' := Seq.wait.inj hr'
    exact ha hp base cnt start j left hc

/-- A suspension point with a request the command's rule issues. -/
theorem State.Live.await {p : Prop} {s : State} {r : Request} {k : State → State} (h : s.Live p) (hr : s.RequestOk r)
    (ha : p → s.ContAlone r.cont) (hk : ∀ t, t.Live p → SameButBuffers s t → (k t).Rested p) : (s.await r k).Rested p := by
  rcases await_cases s r k with ⟨-, hw⟩ | ⟨t, ht, hw⟩ | ⟨t, e, ht, hw⟩ | ⟨t, ht, hw⟩ <;> rw [hw]
  · exact h.wait hr ha
  · exact hk t (h.reply hr ht) (reply_same ht)
  · exact (h.reply hr ht).core.raiseIo e
  · exact (h.reply hr ht).core.finish .cancelled 0 0

/-! ### The loops -/

/-- The part of `Construct` still to come, from slot `j` on (R121). -/
structure Selecting (p : Prop) (s : State) (base cnt : Nat) (start : Word) (left j : Nat) : Prop where
  noView : s.view.valid = false
  window : s.WindowOk base cnt start
  low : base ≤ j
  rest : j + left = base + cnt
  tags : s.WindowTags base (j - base) start
  alone : p → s.WindowAlone base cnt start

theorem Selecting.shrink {p : Prop} {s t : State} {base cnt : Nat} {start : Word} {left j : Nat}
    (h : Selecting p s base cnt start left j) (hst : Shrinks s t) : Selecting p t base cnt start left j where
  noView := Bool.eq_false_iff.mpr fun hv => by
    have hno := h.noView
    rw [hst.view hv] at hv
    rw [hv] at hno
    cases hno
  window := ⟨h.window.1, hst.count.symm ▸ h.window.2.1, h.window.2.2⟩
  low := h.low
  rest := h.rest
  tags q hq hvalid := (hst.valid _ hvalid).2 ▸ h.tags q hq (hst.valid _ hvalid).1
  alone hp := windowAlone_of_shrinks (h.alone hp) hst

/-- Slot `j` is Empty or tagged to its block of the window: the next slot's turn. -/
theorem Selecting.next {p : Prop} {s : State} {base cnt : Nat} {start : Word} {left j : Nat}
    (h : Selecting p s base cnt start (left + 1) j)
    (hj : (s.slot j).valid = true → (s.slot j).tag.toNat = start.toNat + (j - base)) :
    Selecting p s base cnt start left (j + 1) where
  noView := h.noView
  window := h.window
  low := Nat.le_succ_of_le h.low
  rest := by have := h.rest; omega
  tags q hq hvalid := by
    have hlow := h.low
    by_cases hq' : q < j - base
    · exact h.tags q hq' hvalid
    · obtain rfl : q = j - base := by omega
      rw [Nat.add_sub_cancel' hlow] at hvalid ⊢
      exact hj hvalid
  alone := h.alone

/-- Slot `j` has been emptied: the next slot's turn. -/
theorem Selecting.emptied {p : Prop} {s t : State} {base cnt : Nat} {start : Word} {left j : Nat}
    (h : Selecting p s base cnt start (left + 1) j) (hst : Shrinks s (t.invalidateSlot j)) :
    Selecting p (t.invalidateSlot j) base cnt start left (j + 1) :=
  (h.shrink hst).next fun hvalid => by
    rw [slot_invalidateSlot, if_pos rfl] at hvalid
    cases hvalid

/-- The end of a selection: the whole window holds its blocks or is Empty (R120). -/
theorem State.Core.loadView {p : Prop} {s : State} {base cnt : Nat} {start : Word} {j : Nat} (h : s.Core p)
    (hsel : Selecting p s base cnt start 0 j) : (s.loadView base cnt start).Rested p := by
  have htags : s.WindowTags base cnt start := by
    have htags := hsel.tags
    rwa [show j - base = cnt by have := hsel.rest; omega] at htags
  have hcore : State.Core p { s with view := { valid := true, base := base, cnt := cnt, start := start } } :=
    { h with
      viewOk := fun _ => ⟨hsel.window, htags⟩
      viewAlone := fun hp _ => hsel.alone hp }
  exact hcore.finish .ok _ _

theorem constructLoop_rested {p : Prop} {base cnt : Nat} {start : Word} {left j : Nat} {s : State} (hs : s.Live p)
    (h : Selecting p s base cnt start left j) : (constructLoop base cnt start left j s).Rested p := by
  induction left generalizing j s with
  | zero => exact hs.core.loadView h
  | succ left ih =>
    rw [constructLoop_succ]
    split
    · rename_i hm
      obtain ⟨hvalid, htag⟩ := (mismatched_iff s j _).mp hm
      split
      · rename_i hd
        refine hs.await ⟨h.noView, h.window, h.low, h.rest, h.tags, (dirtyAt_iff s j).mpr ⟨hvalid, hd⟩, htag, rfl⟩ ?_ ?_
        · rintro hp _ _ _ _ _ ⟨⟩
          exact h.alone hp
        · exact fun t ht hst => ih (ht.shrink (writtenBack_shrinks t j) rfl rfl rfl)
            (h.emptied (hst.shrinks.trans (writtenBack_shrinks t j)))
      · rename_i hd
        have hempty := invalidateSlot_shrinks (Bool.eq_false_iff.mpr hd)
        exact ih (hs.shrink hempty rfl rfl rfl) (h.emptied hempty)
    · rename_i hm
      refine ih hs (h.next fun hvalid => ?_)
      by_contra htag
      exact hm ((mismatched_iff s j _).mpr ⟨hvalid, htag⟩)

/-- After its fill slot `j` of the view is tagged to its block (R140). -/
theorem State.Live.filled {p : Prop} {s : State} {left j : Nat} (hs : s.Live p) (h : Filling s (left + 1) j) :
    (s.filled j).Live p where
  core := by
    rw [filled_eq_tagSlot h.low]
    exact hs.core.tagSlot h.valid (by have := h.inView; have := h.low; omega) false
  busy := hs.busy
  done := hs.done

theorem fillLoop_rested {p : Prop} {left j : Nat} {s : State} (hs : s.Live p) (h : Filling s left j) :
    (fillLoop left j s).Rested p := by
  induction left generalizing j s with
  | zero => exact hs.core.finish .ok _ _
  | succ left ih =>
    rw [fillLoop_succ]
    split
    · exact ih hs h.next
    · rename_i hc
      have hempty := h.empty hc
      have hinvalid : ((s.invalidateSlot j).slot j).valid = false := by rw [slot_invalidateSlot, if_pos rfl]
      have hclean : (s.slot j).dirty = false := by
        by_cases hj : j < s.slots.length
        · exact Bool.eq_false_iff.mpr fun hd => Bool.eq_false_iff.mp hempty (hs.core.slotsOk j hj hd)
        · rw [slot_out s (not_lt.mp hj)]
          rfl
      rw [if_neg (Bool.eq_false_iff.mp (dirtyAt_of_empty hempty)), refillFrom_eq]
      refine (hs.shrink (invalidateSlot_shrinks hclean) rfl rfl rfl).await ⟨h.valid, h.low, h.rest, hinvalid, rfl⟩
        (fun _ _ _ _ _ _ hc => nomatch hc) fun t ht hst => ?_
      have hfill := (h.invalidateSlot j).of_same hst
      exact ih (ht.filled hfill) hfill.filled

theorem flushLoop_rested {p : Prop} {fuel i runs blocks : Nat} {s : State} (hs : s.Live p) (hv : s.view.valid = false)
    (hfuel : s.slots.length ≤ i + fuel) : (flushLoop fuel i runs blocks s).Rested p := by
  induction fuel generalizing i runs blocks s with
  | zero => exact hs.core.finish .ok _ _
  | succ fuel ih =>
    rw [flushLoop_succ]
    split
    · split
      · rename_i hd
        have hrun := runLength_isRun hd
        have hfuel' : s.slots.length ≤ i + s.runLength i + fuel := by have := hrun.1; omega
        refine hs.await ⟨hv, hrun, hfuel', rfl⟩ (fun _ _ _ _ _ _ hc => nomatch hc) fun t ht hst => ?_
        have hclean := cleanRun_shrinks t i (s.runLength i)
        refine ih (ht.shrink hclean ?_ ?_ ?_) ?_ ?_
        · rw [cleanRun_fields]
        · rw [cleanRun_fields]
        · rw [cleanRun_fields]
        · rw [cleanRun_fields]
          exact hst.view.symm ▸ hv
        · rw [hclean.count, hst.count]
          exact hfuel'
      · exact ih hs hv (by omega)
    · exact hs.core.finish .ok _ _

/-! ### The windows of `SEL` and `SELX` (R122, R123) -/

/-- The slots a hit at slot `i` extends over cache consecutive blocks (R122). -/
theorem hitLength_caches {s : State} {i : Nat} {start : Word} (hi : s.caches i start.toNat = true) {q : Nat}
    (hq : q < s.hitLength i start) :
    i + q < s.slots.length ∧ start.toNat + q < 2 ^ 32 ∧ s.caches (i + q) (start.toNat + q) = true := by
  by_cases h0 : q = 0
  · subst h0
    exact ⟨slot_lt_of_valid s ((caches_iff s i _).mp hi).1, start.isLt, hi⟩
  · obtain ⟨-, -, hall, -⟩ := countUp_spec (fun c => i + c < s.slots.length && start.toNat + c ≤ maxBlock &&
      s.caches (i + c) (start.toNat + c)) s.slots.length 1
    have hq := hall q (by omega) hq
    simp only [Bool.and_eq_true, decide_eq_true_iff] at hq
    obtain ⟨⟨hlt, hle⟩, hc⟩ := hq
    exact ⟨hlt, Nat.lt_succ_of_le hle, hc⟩

theorem one_le_hitLength (s : State) (i : Nat) (start : Word) : 1 ≤ s.hitLength i start :=
  (countUp_spec (fun c => i + c < s.slots.length && start.toNat + c ≤ maxBlock && s.caches (i + c) (start.toNat + c))
    s.slots.length 1).1

theorem predecessor_lt {s : State} {n i : Nat} {start : Word} (h : s.predecessor n start = some i) : i < n := by
  unfold State.predecessor at h
  split at h
  · exact (lowest_some.mp h).1
  · cases h

/-- `SEL` either hits and extends, or takes one slot while no slot caches the block (R122). -/
theorem selPlan_cases (s : State) (start : Word) (hn : 1 ≤ s.slots.length) :
    (∃ i, s.caches i start.toNat = true ∧ s.selPlan start = (i, s.hitLength i start)) ∨
      ((∀ k < s.slots.length, s.caches k start.toNat = false) ∧
        ∃ base, base + 1 ≤ s.slots.length ∧ s.selPlan start = (base, 1)) := by
  unfold State.selPlan
  cases hhit : lowest s.slots.length fun i => s.caches i start.toNat with
  | some i => exact .inl ⟨i, (lowest_some.mp hhit).2.1, rfl⟩
  | none =>
    refine .inr ⟨lowest_none.mp hhit, ?_⟩
    cases hpred : s.predecessor (s.slots.length - 1) start with
    | some i =>
      have := predecessor_lt hpred
      exact ⟨i + 1, by omega, rfl⟩
    | none => exact ⟨0, hn, rfl⟩

/-- One slot stands alone for a block that no slot caches. -/
theorem windowAlone_of_not_cached {s : State} {start : Word} (h : ∀ k < s.slots.length, s.caches k start.toNat = false)
    (base : Nat) : s.WindowAlone base 1 start := by
  intro i hi _ hvalid htag
  have hc := h i hi
  rw [(caches_iff s i _).mpr ⟨hvalid, by omega⟩] at hc
  cases hc

/-- With unique tags a window whose slots cache their blocks stands alone for them. -/
theorem windowAlone_of_caches {s : State} {base cnt : Nat} {start : Word} (hu : s.TagsUnique)
    (h : ∀ q < cnt, s.caches (base + q) (start.toNat + q) = true) : s.WindowAlone base cnt start := by
  intro i hi hout hvalid htag
  obtain ⟨q, hq⟩ := Nat.exists_eq_add_of_le htag.1
  obtain ⟨hvalid', htag'⟩ := (caches_iff s _ _).mp (h q (by omega))
  have := hu i hi (base + q) (slot_lt_of_valid s hvalid') hvalid hvalid'
    (BitVec.eq_of_toNat_eq (hq.trans htag'.symm))
  omega

/-- The window of `SEL` lies in the pool (R122), and stands alone for its blocks if tags are unique. -/
theorem selPlan_window {p : Prop} {s : State} (hs : s.Core p) (start : Word) :
    s.WindowOk (s.selPlan start).1 (s.selPlan start).2 start ∧
      (p → s.WindowAlone (s.selPlan start).1 (s.selPlan start).2 start) := by
  rcases selPlan_cases s start hs.slotCount.1 with ⟨i, hi, hplan⟩ | ⟨hmiss, base, hbase, hplan⟩ <;> rw [hplan]
  · have hpos := one_le_hitLength s i start
    obtain ⟨hlast, hblock, -⟩ := hitLength_caches hi (Nat.sub_one_lt_of_lt hpos)
    refine ⟨⟨hpos, ?_, ?_⟩, fun hp => windowAlone_of_caches (hs.unique hp) fun q hq => (hitLength_caches hi hq).2.2⟩
    · show i + s.hitLength i start ≤ s.slots.length
      omega
    · show start.toNat + s.hitLength i start ≤ 2 ^ 32
      omega
  · exact ⟨⟨le_refl 1, hbase, start.isLt⟩, fun _ => windowAlone_of_not_cached hmiss base⟩

/-- `SELX` either hits, or takes slots while no slot from which the window fits caches the block (R123). -/
theorem selxBase_cases {s : State} {len : Nat} (start : Word) (hlen : len ≤ s.slots.length) :
    s.selxBase len start + len ≤ s.slots.length ∧ (s.caches (s.selxBase len start) start.toNat = true ∨
      ∀ k < s.slots.length - len + 1, s.caches k start.toNat = false) := by
  unfold State.selxBase
  cases hhit : lowest (s.slots.length - len + 1) fun i => s.caches i start.toNat with
  | some i =>
    obtain ⟨hi, hc, -⟩ := lowest_some.mp hhit
    exact ⟨show i + len ≤ s.slots.length by omega, .inl hc⟩
  | none =>
    refine ⟨?_, .inr (lowest_none.mp hhit)⟩
    cases hpred : s.predecessor (s.slots.length - len) start with
    | some i =>
      have := predecessor_lt hpred
      show i + 1 + len ≤ s.slots.length
      omega
    | none => exact (Nat.zero_add len).symm ▸ hlen

theorem selxInRange_iff (s : State) (len : Byte) (start : Word) :
    s.selxInRange len start = true ↔ 1 ≤ len.toNat ∧ len.toNat ≤ s.slots.length ∧ start.toNat + len.toNat ≤ 2 ^ 32 := by
  simp only [State.selxInRange, Bool.and_eq_true, decide_eq_true_iff, maxBlock]
  omega

/-- The window of `SELX` lies in the pool (R123), and stands alone for its blocks if there are at most two slots and tags are
unique: it is one slot that hits or misses in the whole pool, or it is the whole pool. -/
theorem selxBase_window {p : Prop} {s : State} (hs : s.Core p) {len : Byte} {start : Word}
    (h : s.selxInRange len start = true) :
    s.WindowOk (s.selxBase len.toNat start) len.toNat start ∧
      (p → s.WindowAlone (s.selxBase len.toNat start) len.toNat start) := by
  obtain ⟨hpos, hlen, hend⟩ := (selxInRange_iff s len start).mp h
  obtain ⟨hfits, hhit⟩ := selxBase_cases start hlen
  refine ⟨⟨hpos, hfits, hend⟩, fun hp => ?_⟩
  have hfew := hs.few hp
  by_cases hone : len.toNat = 1
  · rw [hone] at hhit ⊢
    rcases hhit with hc | hmiss
    · refine windowAlone_of_caches (hs.unique hp) fun q hq => ?_
      obtain rfl : q = 0 := by omega
      exact hc
    · exact windowAlone_of_not_cached (fun k hk => hmiss k (by omega)) _
  · intro i hi hout
    omega

/-! ### Commands -/

theorem checksumMessage_withChecksum (c : Checksum) (h : Block) :
    checksumMessage (withChecksum c h) = checksumMessage h := by
  have hbyte {p : Nat} (hp : p < 508) : blockByte (withChecksum c h) p = blockByte h p := by
    rw [withChecksum, blockByte_setWord _ _ _ (by omega), if_neg (by omega)]
  have hentries : ∀ p ∈ List.range 256, blockByte (withChecksum c h) (4 + p) = blockByte h (4 + p) := fun p hp =>
    hbyte (by have := List.mem_range.mp hp; omega)
  rw [checksumMessage, checksumMessage, hbyte (by omega), List.map_congr_left hentries]

/-- The header `HWB` writes holds its own checksum (R179). -/
theorem storedChecksum_withChecksum (c : Checksum) (h : Block) :
    storedChecksum (withChecksum c h) = cksum c h ∧ cksum c h = cksum c (withChecksum c h) :=
  ⟨blockWord_setWord h _ (by omega), by rw [cksum, cksum, checksumMessage_withChecksum]⟩

theorem Selecting.begin {p : Prop} {s : State} {base cnt : Nat} {start : Word}
    (h : s.WindowOk base cnt start ∧ (p → s.WindowAlone base cnt start)) :
    Selecting p s.dropView base cnt start cnt base where
  noView := rfl
  window := h.1
  low := le_refl base
  rest := rfl
  tags q hq := by rw [Nat.sub_self] at hq; cases hq
  alone := h.2

theorem State.Core.reports {p : Prop} {s t : State} {m : Bool} (hs : s.Core p) (h : Reports s m t) : t.Rested p := by
  obtain ⟨hdr, hv, e, r0, r1, rfl⟩ := h
  have hcore : State.Core p { s with hdr := hdr, hdrValidated := hv, mounted := m } :=
    hs.shrink (.of_slots rfl rfl rfl) hs.mediumOk
  exact hcore.finish e r0 r1

/-- Every command ends or waits in a state that meets the invariants. -/
theorem exec_rested {p : Prop} {i : Instr} {s t : State} (hs : s.Live p) (h : exec i s = .next t) : t.Rested p := by
  have hdrop : s.dropView.Live p := hs.shrink (dropView_shrinks s) rfl rfl rfl
  cases exec_executes h with
  | reports h | mounts _ h =>
    exact hs.core.reports h
  | sel start => exact constructLoop_rested hdrop (.begin (selPlan_window hs.core start))
  | selx len start hr => exact constructLoop_rested hdrop (.begin (selxBase_window hs.core hr))
  | vrd hv => exact fillLoop_rested hs ⟨hs.core.viewOk, hv, le_refl _, rfl⟩
  | vmod off len r0 hv => exact (hs.core.markSlots hv fun q hq => lt_of_mem_markedSlots hq).finish .ok r0 0
  | store j b =>
    have htags : Shrinks s (s.setSlotData j b) := .of_tags rfl (setSlot_length _ _ _) rfl (setSlotData_tags s j b)
    exact (hs.core.shrink htags hs.core.mediumOk).finish .ok 0 0
  | flush => exact flushLoop_rested hdrop rfl (Nat.le_add_left _ _)
  | hld =>
    have hlive : State.Live p { s with hdrValidated := false, mounted := false } :=
      hs.shrink (.of_slots rfl rfl rfl) rfl rfl rfl
    exact hlive.await ⟨rfl, rfl⟩ (fun _ _ _ _ _ _ hc => nomatch hc) fun t ht _ => ht.core.finish .ok 0 0
  | hwb hv =>
    have hlive : State.Live p { s with hdr := withChecksum s.cfg.crc s.hdr } :=
      hs.shrink (.of_slots rfl rfl rfl) rfl rfl rfl
    obtain ⟨hstored, hsum⟩ := storedChecksum_withChecksum s.cfg.crc s.hdr
    exact hlive.await ⟨hv, hstored, hsum, rfl⟩ (fun _ _ _ _ _ _ hc => nomatch hc) fun t ht _ => ht.core.finish .ok _ 0

/-- What is left of a command when its wait ends with success ends or waits in a state that meets the invariants. -/
theorem resume_rested {p : Prop} {s u : State} {r : Request} (hs : s.Live p) (hr : s.RequestOk r)
    (ha : p → s.ContAlone r.cont) (h : s.reply r = some (.ok, u)) : (resume r.cont u).Rested p := by
  have hu := hs.reply hr h
  have hsame := reply_same h
  cases hc : r.cont with
  | select base cnt start j left =>
    obtain ⟨hv, hw, hlow, hrest, htags, -, -⟩ := hr.select hc
    have hsel : Selecting p s base cnt start (left + 1) j :=
      ⟨hv, hw, hlow, by omega, htags, fun hp => ha hp base cnt start j left hc⟩
    exact constructLoop_rested (hu.shrink (writtenBack_shrinks u j) rfl rfl rfl)
      (hsel.emptied (hsame.shrinks.trans (writtenBack_shrinks u j)))
  | fillWrite j left => exact absurd hc hr.not_fillWrite
  | fillRead j left =>
    obtain ⟨hv, hlow, hrest, -, -⟩ := hr.fillRead hc
    have hfill : Filling u (left + 1) j :=
      Filling.of_same ⟨hs.core.viewOk, hv, hlow, by omega⟩ hsame
    exact fillLoop_rested (hu.filled hfill) hfill.filled
  | flush i n fuel runs blocks =>
    obtain ⟨hv, -, hfuel, -⟩ := hr.flush hc
    have hclean := cleanRun_shrinks u i n
    refine flushLoop_rested (hu.shrink hclean ?_ ?_ ?_) ?_ ?_
    · rw [cleanRun_fields]
    · rw [cleanRun_fields]
    · rw [cleanRun_fields]
    · rw [cleanRun_fields]
      exact hsame.view.symm ▸ hv
    · rw [hclean.count, hsame.count]
      exact hfuel
  | headerLoad => exact hu.core.finish .ok 0 0
  | headerStore c => exact hu.core.finish .ok c 0

/-- The rest of a command, when its wait ends, ends or waits in a state that meets the invariants. -/
theorem settle_rested {p : Prop} {s u : State} {r : Request} {rep : Reply} (hs : s.Rested p) (hseq : s.seq = .wait r)
    (h : s.reply r = some (rep, u)) : (settle rep { u with seq := .run } (resume r.cont)).Rested p := by
  obtain ⟨hb, hd, hr⟩ := hs.seqOk.requestOk hseq
  have hlive : State.Live p { s with seq := .run } :=
    State.Live.shrink ⟨hs.core, hb, hd⟩ (.of_slots rfl rfl rfl) rfl rfl rfl
  have hu := hlive.reply hr (reply_run h)
  cases rep with
  | ok =>
    exact resume_rested hlive hr (fun hp base cnt start j left hc => hs.selectAlone hp r base cnt start j left hseq hc)
      (reply_run h)
  | err e => exact hu.core.raiseIo e
  | cancelled => exact hu.core.finish .cancelled 0 0

/-! ### Host sequences and steps -/

/-- The invariants do not read the inputs, the port's registers and the host's fields. -/
theorem State.Rested.outer {p : Prop} {s : State} (h : s.Rested p) (ins : List Input) (rd c1 c2 : Word) (ov : Bool)
    (f : Option File) (m : Bool) (j : Option Job) (res : HostResult) :
    State.Rested p { s with
      inputs := ins, readData := rd, cmd1 := c1, cmd2 := c2, ovr := ov, file := f, mounted := m, job := j
      hostResult := res } where
  core := h.core.shrink (.of_slots rfl rfl rfl) h.core.mediumOk
  seqOk := h.seqOk
  selectAlone := h.selectAlone

theorem PortOnly.rested {p : Prop} {s t : State} (h : PortOnly s t) (hs : s.Rested p) : t.Rested p := by
  obtain ⟨ins, rd, c1, c2, ov, rfl⟩ := h
  exact hs.outer ins rd c1 c2 ov s.file s.mounted s.job s.hostResult

/-- The launch of a descriptor, legal or not (R41, R95). -/
theorem launch_rested {p : Prop} {s t : State} {v : Word} (hs : s.Core p) (h : (s.launch v).runCommand = .next t) :
    t.Rested p := by
  have hcore : (s.launch v).Core p := hs.shrink (.of_slots rfl rfl rfl) hs.mediumOk
  unfold State.runCommand at h
  split at h
  · exact exec_rested ⟨hcore, rfl, rfl⟩ h
  · cases h
    exact hcore.finish .illegalCommand _ 0

/-- A store to an operand register (R41, R42). -/
theorem busWrite_rested {p : Prop} {s t : State} {width off : Nat} {v : Word} (hs : s.Rested p) (hoff : off ≠ 0x1C)
    (h : s.busWrite width off v = .next t) : t.Rested p := by
  rcases busWrite_cases h with hp | ⟨-, hrun⟩ | ⟨-, hctrl, -⟩
  · exact hp.rested hs
  · exact launch_rested hs.core hrun
  · exact absurd hctrl hoff

theorem issueCommand_rested {p : Prop} {s t : State} {i : Instr} (hs : s.Rested p) (h : s.issueCommand i = .next t) :
    t.Rested p := by
  obtain ⟨u, hu⟩ := busWrite_next s 4 0x04 (encode i).cmd1
  obtain ⟨v, hv⟩ := busWrite_next u 4 0x08 (encode i).cmd2
  simp only [State.issueCommand, hu, hv, afterStore_next] at h
  exact busWrite_rested (busWrite_rested (busWrite_rested hs (by decide) hu) (by decide) hv) (by decide) h

theorem runProg_rested {p : Prop} {q : HostSeq} {file : Option File} {prog : Prog HostResult}
    {results : List (Word × Word)} {s t : State} (hs : s.Rested p) (h : runProg q file prog results s = .next t) :
    t.Rested p :=
  runProg_keeps (P := State.Rested p)
    (fun s f hs => hs.outer s.inputs s.readData s.cmd1 s.cmd2 s.ovr f s.mounted s.job s.hostResult)
    (fun s hs => hs.outer s.inputs s.readData s.cmd1 s.cmd2 s.ovr s.file false s.job s.hostResult)
    (fun s r hs => hs.outer s.inputs s.readData s.cmd1 s.cmd2 s.ovr s.file s.mounted none r)
    (fun s j hs => hs.outer s.inputs s.readData s.cmd1 s.cmd2 s.ovr s.file s.mounted (some j) .pending)
    (fun _ _ _ hs h => issueCommand_rested hs h) prog results s t hs h

/-- A host sequence is suspended only at a command that waits (R101, R208). -/
def State.JobOk (s : State) : Prop := s.job.isSome = true → ∃ r, s.seq = .wait r

theorem jobOk_of_none {s : State} (h : s.job = none) : s.JobOk := by
  intro hj
  rw [h] at hj
  cases hj

theorem runProg_jobOk {q : HostSeq} {file : Option File} {prog : Prog HostResult} {results : List (Word × Word)}
    {s t : State} (h : runProg q file prog results s = .next t) : t.JobOk := by
  rcases runProg_job prog results s t h with hnone | ⟨r, _, hr, -, -⟩
  · exact jobOk_of_none hnone
  · exact fun _ => ⟨r, hr⟩

/-- The invariants of a state between steps. -/
def State.Sound (p : Prop) (s : State) : Prop := s.Rested p ∧ s.JobOk

theorem continueSequence_sound {p : Prop} {s t : State} (hs : s.Rested p) (h : s.continueSequence = .next t) :
    t.Sound p := by
  cases hj : s.job with
  | none =>
    rw [continueSequence_none hj] at h
    cases h
    exact ⟨hs, jobOk_of_none hj⟩
  | some j =>
    simp only [State.continueSequence, hj] at h
    rcases commandEnd_cases s j.seq (.next s)
      (fun r => runProg j.seq j.file (continuation j s r) (j.results ++ [r]) s) with ⟨hw, hc⟩ | ⟨-, -, hc⟩ | ⟨-, -, hc⟩ <;>
      rw [hc] at h
    · cases h
      exact ⟨hs, fun _ => hw⟩
    · exact ⟨runProg_rested hs h, runProg_jobOk h⟩
    · cases h
      exact ⟨hs.outer s.inputs s.readData s.cmd1 s.cmd2 s.ovr s.file s.mounted none _, jobOk_of_none rfl⟩

/-- What a reset withdraws is a request whose blocks exist, so that the medium stays canonical (R312). -/
theorem withdrawAny_medium_wf {s : State} (hs : s.SeqOk) (hm : Memory.wf s.medium = true) :
    Memory.wf s.withdrawAny.medium = true := by
  unfold State.withdrawAny
  split
  · rename_i r hseq
    have hwithdraw : Transacts r (s.logged r .cancelled) (s.withdraw r) := .spoiled
    exact hwithdraw.medium_wf (hs.requestOk hseq).2.2.fits hm
  · exact hm

theorem slot_performReset (s : State) (j : Nat) :
    (s.performReset.slot j).valid = false ∧ (s.performReset.slot j).dirty = false ∧ (s.performReset.slot j).tag = 0 := by
  obtain ⟨n, k, hslots⟩ : ∃ n k, s.performReset.slots = (List.range n).map fun i => freshSlot (k + i) := ⟨_, _, rfl⟩
  by_cases hj : j < n
  · simp [State.slot, hslots, hj, freshSlot]
  · have hout : s.performReset.slots.length ≤ j := by simp [hslots, not_lt.mp hj]
    rw [slot_out _ hout]
    exact ⟨rfl, rfl, rfl⟩

/-- A reset leaves every slot Empty and clean and no view (R50). -/
theorem performReset_shrinks (s : State) : Shrinks s s.performReset := by
  obtain ⟨hview, -, -, -, -, -, hcfg, hcount⟩ := performReset_fields s
  refine ⟨hcfg, hcount, fun hv => ?_, fun j hj => ?_, fun j hj => ?_⟩
  · rw [hview] at hv
    cases hv
  · rw [(slot_performReset s j).1] at hj
    cases hj
  · rw [(slot_performReset s j).2.1] at hj
    cases hj

theorem performReset_sound {p : Prop} {s : State} (hs : s.Core p) (hseq : s.SeqOk) : s.performReset.Sound p :=
  ⟨⟨hs.shrink (performReset_shrinks s) (withdrawAny_medium_wf hseq hs.mediumOk), rfl, nofun⟩, jobOk_of_none rfl⟩

/-- Taking an input that ends no wait. -/
theorem takeInput_sound {p : Prop} {s t : State} (hs : s.Sound p) (hnone : ∀ r, s.seq = .wait r → s.reply r = none)
    (h : s.takeInput = .next t) : t.Sound p := by
  obtain ⟨hrested, hjob⟩ := hs
  have hrest (rest : List Input) : State.Rested p { s with inputs := rest } :=
    hrested.outer rest s.readData s.cmd1 s.cmd2 s.ovr s.file s.mounted s.job s.hostResult
  rcases takeInput_cases hnone h with hport | ⟨x, rest, -, ⟨-, rfl⟩ | ⟨hb, v, hrun⟩ | ⟨q, -, hcall⟩⟩
  · refine ⟨hport.rested hrested, ?_⟩
    obtain ⟨_, _, _, _, _, rfl⟩ := hport
    exact hjob
  · exact performReset_sound (hrest rest).core (hrest rest).seqOk
  · refine ⟨launch_rested (hrest rest).core hrun, jobOk_of_none ((runCommand_job hrun).trans ?_)⟩
    by_contra hsome
    obtain ⟨r, hr⟩ := hjob (Option.isSome_iff_ne_none.mpr hsome)
    rw [(hrested.seqOk.requestOk hr).1] at hb
    cases hb
  · unfold State.call at hcall
    split at hcall
    · cases hcall
    · exact ⟨runProg_rested (hrest rest) hcall, runProg_jobOk hcall⟩

/-- Every step keeps the invariants. -/
theorem step_sound {p : Prop} {s t : State} (hs : s.Sound p) (h : step s = .next t) : t.Sound p := by
  rcases step_cases s with ⟨r, rep, u, hseq, hr, hstep⟩ | ⟨hnone, hstep⟩ <;> rw [hstep] at h
  · exact continueSequence_sound (settle_rested hs.1 hseq hr) h
  · exact takeInput_sound hs hnone h

/-- The invariants between steps in the words of the claims. -/
theorem sound_iff (p : Prop) (s : State) : s.Sound p ↔ s.Inv ∧ (p → s.slots.length ≤ 2 ∧ s.UniqueInv) := by
  constructor
  · rintro ⟨⟨hcore, hseq, hselect⟩, hjob⟩
    exact ⟨⟨hcore.slotCount, hcore.params, hcore.checksum, hcore.slotsOk, hcore.viewOk, hseq, hjob, hcore.mediumOk⟩,
      fun hp => ⟨hcore.few hp, hcore.unique hp, hcore.viewAlone hp, hselect hp⟩⟩
  · rintro ⟨hinv, hunique⟩
    have hcore : s.Core p :=
      { slotCount := hinv.slotCount
        params := hinv.params
        checksum := hinv.checksum
        slotsOk := hinv.slotsOk
        viewOk := hinv.viewOk
        mediumOk := hinv.mediumOk
        few := fun hp => (hunique hp).1
        unique := fun hp => (hunique hp).2.unique
        viewAlone := fun hp => (hunique hp).2.viewAlone }
    exact ⟨⟨hcore, hinv.seqOk, fun hp => (hunique hp).2.selectAlone⟩, hinv.jobOk⟩

/-- Settles O17: `step_sound`, uniqueness not claimed. -/
theorem stepKeepsMachineInvariant : Obligations.StepKeepsMachineInvariant := by
  intro s t hs h
  have hsound : s.Sound False := (sound_iff False s).mpr ⟨hs, False.elim⟩
  exact ((sound_iff False t).mp (step_sound hsound h)).1

/-- Settles O18: `step_sound`, uniqueness claimed. -/
theorem stepKeepsTagsUnique : Obligations.StepKeepsTagsUnique := by
  intro s t hs hfew hunique h
  have hsound : s.Sound True := (sound_iff True s).mpr ⟨hs, fun _ => ⟨hfew, hunique⟩⟩
  exact (((sound_iff True t).mp (step_sound hsound h)).2 trivial).2

/-! ### Stores, one by one (R40 to R42, R46) -/

/-- A store that ends no wait is performed (R40). -/
theorem step_write {s : State} {width off : Nat} {v : Word} {rest : List Input} (hin : s.inputs = .write width off v :: rest)
    (hnone : ∀ r, s.seq = .wait r → s.reply r = none) :
    step s = State.busWrite { s with inputs := rest } width off v := by
  rcases step_cases s with ⟨r, rep, t, hseq, hr, -⟩ | ⟨-, hstep⟩
  · rw [hnone r hseq] at hr
    cases hr
  · rw [hstep, State.takeInput, hin]

theorem not_wait_of_idle {s : State} (hs : s.seq = .idle) {r : Request} {q : Prop} : s.seq = .wait r → q := by
  rw [hs]
  exact nofun

/-- Only a store to `CTRL` can end a wait (R46). -/
theorem reply_write_none {s : State} {width off : Nat} {v : Word} {rest : List Input}
    (hin : s.inputs = .write width off v :: rest) (hctrl : ¬ (width = 4 ∧ off = 0x1C)) (r : Request) :
    s.reply r = none := by
  rw [State.reply, hin]
  exact if_neg fun h => hctrl ⟨h.1, h.2.1⟩

/-- Settles O5. -/
theorem stepRunsLaunchedCommand : Obligations.StepRunsLaunchedCommand := by
  intro s v i rest hseq hbusy hin hdecode
  have hlaunch : State.busWrite { s with inputs := rest } 4 0 v = (State.launch { s with inputs := rest } v).runCommand := by
    simp [State.busWrite, hbusy]
  have hrun : (State.launch { s with inputs := rest } v).runCommand = exec i (State.launch { s with inputs := rest } v) := by
    have hdecode' : decode (State.launch { s with inputs := rest } v).descriptor = .ok i := hdecode
    rw [State.runCommand, hdecode']
  rw [step_write hin fun r => not_wait_of_idle hseq, hlaunch, hrun]
  rfl

/-- Settles O6. -/
theorem operandRegisterStores : Obligations.OperandRegisterStores := by
  intro s v rest
  refine ⟨fun hseq hbusy hin => ?_, fun hseq hbusy hin => ?_, fun r off hseq hbusy hoff hin => ?_⟩
  · rw [step_write hin fun r => not_wait_of_idle hseq]
    simp [State.busWrite, hbusy]
  · rw [step_write hin fun r => not_wait_of_idle hseq]
    simp [State.busWrite, hbusy]
  · rw [step_write hin fun r _ => reply_write_none hin (by omega) r]
    rcases hoff with rfl | rfl | rfl <;> simp [State.busWrite, State.dropped, hbusy]

/-- Settles O7. -/
theorem storesElsewhereAreIgnored : Obligations.StoresElsewhereAreIgnored := by
  intro s width off v rest hin hother
  rw [step_write hin fun r _ => reply_write_none hin (by omega) r]
  by_cases hwidth : width = 4
  · unfold State.busWrite
    rw [if_neg (not_not_intro hwidth)]
    split
    case h_5 => rfl
    all_goals omega
  · exact if_pos hwidth

/-- Settles O12. -/
theorem cancelWhenIdleHasNoEffect : Obligations.CancelWhenIdleHasNoEffect := by
  intro s v rest hseq hreset hin
  rw [step_write hin fun r => not_wait_of_idle hseq]
  rcases writeCtrl_cases { s with inputs := rest } v with ⟨hr, -⟩ | ⟨-, -, r, hwait⟩ | ⟨-, hw⟩
  · rw [ctrlReset, hreset] at hr
    cases hr
  · exact not_wait_of_idle hseq hwait
  · exact congrArg Host.Outcome.next hw

/-! ### Reset (R50, R310, R312) -/

/-- A reset is performed, whatever waits: it beats a cancel and an answer (R46, R310). -/
theorem step_reset {s : State} {x : Input} {rest : List Input} (hin : s.inputs = x :: rest) (hx : isResetInput x) :
    step s = .next (State.performReset { s with inputs := rest }) := by
  have htake (hnone : ∀ r, s.reply r = none) : step s = s.takeInput := by
    rcases step_cases s with ⟨r, rep, t, -, hr, -⟩ | ⟨-, hstep⟩
    · rw [hnone r] at hr
      cases hr
    · exact hstep
  rcases hx with rfl | ⟨v, hv, rfl | ⟨a, rfl⟩⟩
  · rw [htake fun r => by rw [State.reply, hin], State.takeInput, hin]
  all_goals
    have hreset : ctrlReset v = true := hv
    rw [htake fun r => by simp [State.reply, hin, hreset], State.takeInput, hin]
    simp [State.busWrite, State.writeCtrl, hreset]

theorem withdrawAny_inputs (s : State) : s.withdrawAny.inputs = s.inputs := by
  unfold State.withdrawAny
  split
  · exact (congrArg State.inputs (withdraw_outside s _ s.seq s.inputs s.job s.hostResult) :)
  · rfl

/-- A withdrawn request touches the medium only where it was writing (R211(c), R312). -/
theorem read_withdraw {s : State} {r : Request} {a : Nat}
    (ha : r.kind = .wr → a < 512 * r.blk.toNat ∨ 512 * (r.blk.toNat + r.cnt) ≤ a) :
    Memory.read (s.withdraw r).medium a = Memory.read s.medium a := by
  have hbuffer : ((s.logged r .cancelled).spoilBuffer r).medium = s.medium := spoilBuffer_medium _ r
  rw [State.withdraw, ← hbuffer]
  generalize (s.logged r .cancelled).spoilBuffer r = t
  unfold State.spoilMedium
  split
  case h_1 => rfl
  case h_2 hk =>
    have hlen : (t.freeBlocks r.cnt).length = r.cnt := by simp [State.freeBlocks]
    exact read_writeBlocks_other _ _ _ (hlen.symm ▸ ha hk)

/-- The values R50 gives, in the state a reset leaves. -/
theorem performReset_isReset (s : State) : isReset s s.performReset := by
  obtain ⟨-, -, -, -, -, -, hcfg, hcount⟩ := performReset_fields s
  have hslots (i : Nat) (_ : i < s.performReset.slots.length) := slot_performReset s i
  exact ⟨hcount, hslots, rfl, rfl, rfl, rfl, rfl, rfl, rfl, rfl, rfl, rfl, rfl, rfl, rfl, hcfg⟩

/-- Settles O14. -/
theorem resetFromAnyState : Obligations.ResetFromAnyState := by
  intro s x rest hin hx
  refine ⟨_, step_reset hin hx, performReset_isReset { s with inputs := rest }, withdrawAny_inputs _, rfl, rfl,
    fun a ha => ?_⟩
  show Memory.read (State.withdrawAny { s with inputs := rest }).medium a = Memory.read s.medium a
  unfold State.withdrawAny
  split
  · rename_i r hseq
    exact read_withdraw (s := { s with inputs := rest }) (ha r hseq)
  · rfl

/-- Settles O15. -/
theorem resetStateValues : Obligations.ResetStateValues := by
  have hslots : ∀ i < State.reset.slots.length, (State.reset.slot i).valid = false ∧ (State.reset.slot i).dirty = false ∧
      (State.reset.slot i).tag = 0 := by
    intro i hi
    have hi : i < 2 := hi
    interval_cases i <;> exact ⟨rfl, rfl, rfl⟩
  exact ⟨⟨rfl, hslots, rfl, rfl, rfl, rfl, rfl, rfl, rfl, rfl, rfl, rfl, rfl, rfl, rfl, rfl⟩, rfl⟩

/-- Settles O16: every slot is Empty, and R173's function detects flips (`cksum_detectsFlips`). -/
theorem invariantAtReset : Obligations.InvariantAtReset := by
  obtain ⟨⟨-, hslots, -⟩, -⟩ := resetStateValues
  have hempty (i : Nat) (hi : i < State.reset.slots.length) (hv : (State.reset.slot i).valid = true) : False := by
    rw [(hslots i hi).1] at hv
    cases hv
  have hclean (i : Nat) (hi : i < State.reset.slots.length) (hd : (State.reset.slot i).dirty = true) : False := by
    rw [(hslots i hi).2.1] at hd
    cases hd
  refine ⟨?_, ⟨fun i hi j hj hvi => (hempty i hi hvi).elim, nofun, nofun⟩, (fileOk_iff _).mpr ⟨nofun, nofun⟩⟩
  exact
    { slotCount := by decide
      params := by decide
      checksum := cksum_detectsFlips
      slotsOk := fun i hi hd => (hclean i hi hd).elim
      viewOk := nofun
      seqOk := rfl
      jobOk := nofun
      mediumOk := reset_medium_wf }

/-! ### The registers the host reads (R40, R43, R46 to R49, R285) -/

theorem errCode_eq_codeOf (e : Err) : errCode e = codeOf e := by
  cases e <;> rfl

theorem codeOf_le (e : Err) : codeOf e ≤ 20 := by
  cases e <;> decide

theorem flagBit_eq (b : Bool) (i : Nat) : flagBit b i = 2 ^ i * b.toNat := by
  cases b
  · rfl
  · exact (Nat.mul_one _).symm

/-- `STATUS` as a number (R43). -/
theorem statusWord_toNat (s : State) :
    (statusWord s).toNat = s.busy.toNat + 2 * s.done.toNat + 4 * s.ovr.toNat + 8 * s.hdrValidated.toNat
      + 16 * s.view.valid.toNat + 256 * codeOf s.err := by
  have := s.busy.toNat_le
  have := s.done.toNat_le
  have := s.ovr.toNat_le
  have := s.hdrValidated.toNat_le
  have := s.view.valid.toNat_le
  have := codeOf_le s.err
  rw [statusWord, BitVec.toNat_ofNat, errCode_eq_codeOf]
  simp only [flagBit_eq]
  omega

/-- A bit of a word, from the word as a number. -/
theorem getLsbD_of_toNat {w : Word} {n lo hi : Nat} {b : Bool} (h : w.toNat = lo + 2 ^ n * (b.toNat + 2 * hi))
    (hlo : lo < 2 ^ n) : w.getLsbD n = b := by
  rw [BitVec.getLsbD, h, Nat.testBit_eq_decide_div_mod_eq, Nat.add_mul_div_left _ _ (Nat.two_pow_pos n),
    Nat.div_eq_of_lt hlo]
  cases b <;> simp [Nat.add_mod]

/-- Settles O56. -/
theorem statusRegisterBits : Obligations.StatusRegisterBits := by
  intro s
  have hw : (readReg s 4 0x0C).toNat = _ := statusWord_toNat s
  have := s.busy.toNat_le
  have := s.done.toNat_le
  have := s.ovr.toNat_le
  have := s.hdrValidated.toNat_le
  have := s.view.valid.toNat_le
  have := codeOf_le s.err
  refine ⟨?_, ?_, ?_, ?_, ?_, ?_, ?_, ?_⟩
  · exact getLsbD_of_toNat (lo := 0)
      (hi := s.done.toNat + 2 * s.ovr.toNat + 4 * s.hdrValidated.toNat + 8 * s.view.valid.toNat + 128 * codeOf s.err)
      (by omega) (by omega)
  · exact getLsbD_of_toNat (lo := s.busy.toNat)
      (hi := s.ovr.toNat + 2 * s.hdrValidated.toNat + 4 * s.view.valid.toNat + 64 * codeOf s.err) (by omega) (by omega)
  · exact getLsbD_of_toNat (lo := s.busy.toNat + 2 * s.done.toNat)
      (hi := s.hdrValidated.toNat + 2 * s.view.valid.toNat + 32 * codeOf s.err) (by omega) (by omega)
  · exact getLsbD_of_toNat (lo := s.busy.toNat + 2 * s.done.toNat + 4 * s.ovr.toNat)
      (hi := s.view.valid.toNat + 16 * codeOf s.err) (by omega) (by omega)
  · exact getLsbD_of_toNat (lo := s.busy.toNat + 2 * s.done.toNat + 4 * s.ovr.toNat + 8 * s.hdrValidated.toNat)
      (hi := 8 * codeOf s.err) (by omega) (by omega)
  · apply BitVec.eq_of_toNat_eq
    rw [BitVec.extractLsb'_toNat, hw, Nat.shiftRight_eq_div_pow]
    simp only [BitVec.toNat_ofNat]
    omega
  · rw [BitVec.extractLsb'_toNat, hw, Nat.shiftRight_eq_div_pow]
    omega
  · apply BitVec.eq_of_toNat_eq
    rw [BitVec.extractLsb'_toNat, hw, Nat.shiftRight_eq_div_pow]
    simp only [BitVec.toNat_ofNat]
    omega

/-- An aligned load from the tag array window (R49). -/
theorem readReg_window (s : State) {off : Nat} (hlow : 0x100 ≤ off) (halign : off % 4 = 0) :
    readReg s 4 off = tagWindow s off := by
  unfold readReg
  rw [if_neg (by omega), if_pos hlow]

/-- Every load of another width or of a misaligned offset reads 0 (R40). -/
theorem readReg_ignored (s : State) {width off : Nat} (h : width ≠ 4 ∨ off % 4 ≠ 0) : readReg s width off = 0 :=
  if_pos h

/-- A load of an unlisted offset reads 0 (R40). -/
theorem readReg_unlisted (s : State) {off : Nat} (hlow : 0x2C ≤ off)
    (hout : off < 0x100 ∨ 0x100 + 8 * s.slots.length ≤ off) : readReg s 4 off = 0 := by
  by_cases halign : off % 4 = 0
  · by_cases hwindow : 0x100 ≤ off
    · have hnone : s.slots[(off - 0x100) / 8]? = none := List.getElem?_eq_none (by omega)
      rw [readReg_window s hwindow halign, tagWindow, hnone]
    · unfold readReg
      rw [if_neg (by omega), if_neg hwindow]
      split
      case h_11 => rfl
      all_goals omega
  · exact readReg_ignored s (.inr halign)

theorem getElem?_slots {s : State} {i : Nat} (hi : i < s.slots.length) : s.slots[i]? = some (s.slot i) := by
  rw [State.slot, List.getElem?_eq_getElem hi, Option.getD_some]

/-- `TAG[i]` and `TST[i]` (R49). -/
theorem readReg_tags {s : State} {i : Nat} (hi : i < s.slots.length) :
    readReg s 4 (0x100 + 8 * i) = (s.slot i).tag ∧ readReg s 4 (0x104 + 8 * i) = tstWord (s.slot i) := by
  have hslot := getElem?_slots hi
  constructor
  · rw [readReg_window s (by omega) (by omega), tagWindow, show (0x100 + 8 * i - 0x100) / 8 = i by omega, hslot]
    exact if_pos (by omega)
  · rw [readReg_window s (by omega) (by omega), tagWindow, show (0x104 + 8 * i - 0x100) / 8 = i by omega, hslot]
    exact if_neg (by omega)

theorem tstWord_toNat (sl : Slot) :
    (tstWord sl).toNat = (if sl.valid then 1 else 0) + (if sl.dirty then 2 else 0) := by
  obtain ⟨valid, tag, dirty, data⟩ := sl
  cases valid <;> cases dirty <;> rfl

/-- `VIEW` as a number (R48): the fields of a view of the pool fit their eight bits. -/
theorem viewWord_toNat {s : State} (hs : s.Inv) :
    (viewWord s).toNat = if s.view.valid then s.view.base + 256 * s.view.cnt + 2 ^ 31 else 0 := by
  unfold viewWord
  by_cases hv : s.view.valid = true
  · obtain ⟨⟨-, hfits, -⟩, -⟩ := hs.viewOk hv
    have hcount := hs.slotCount.2
    rw [if_pos hv, if_pos hv, Nat.mod_eq_of_lt (show s.view.base < 256 by omega),
      Nat.mod_eq_of_lt (show s.view.cnt < 256 by omega), BitVec.toNat_ofNat, Nat.mod_eq_of_lt (by omega)]
  · rw [if_neg hv, if_neg hv]
    rfl

/-- `CAP` as a number (R47). -/
theorem capWord_toNat {s : State} (hs : s.Inv) :
    (capWord s).toNat = s.slots.length + 256 * s.cfg.supportedVersion.toNat + 65536 := by
  have hcount := hs.slotCount.2
  have hversion := s.cfg.supportedVersion.isLt
  rw [capWord, BitVec.toNat_ofNat]
  omega

/-- Settles O57. -/
theorem registerMapReads : Obligations.RegisterMapReads := by
  intro s hs
  refine ⟨statusWord_toNat s, rfl, rfl, rfl, rfl, rfl, rfl, rfl, viewWord_toNat hs, rfl, capWord_toNat hs, fun i hi => ?_,
    fun off => readReg_unlisted s, fun width off => readReg_ignored s⟩
  obtain ⟨htag, htst⟩ := readReg_tags hi
  exact ⟨htag, htst ▸ tstWord_toNat _⟩

end Sys2Proof.Machine

/-! # Stores to the view read back, and loads of a register (R60, R62, R63, R67, R142, R144, R145) -/

namespace Sys2Proof.Machine

open Sys2Proof

/-! ### A word in a block and its bytes -/

/-- Byte `i` of `le32(w)` as a number (R13). -/
theorem le32Byte_toNat (w : Word) (i : Nat) : (le32Byte w i).toNat = w.toNat / 2 ^ (8 * i) % 256 := by
  rw [le32Byte, BitVec.extractLsb'_toNat, Nat.shiftRight_eq_div_pow]

/-! ### The view commands inside the view -/

theorem wordInView_iff (s : State) (off : Word) :
    wordInView s off = true ↔ off.toNat % 4 = 0 ∧ off.toNat + 4 ≤ 512 * s.view.cnt := by
  rw [wordInView, Bool.and_eq_true, decide_eq_true_iff, decide_eq_true_iff, State.viewBytes]

/-- `VLB` inside the view (R142). -/
theorem exec_vlb_inView {s : State} {off : Word} (hview : s.view.valid = true) (hin : off.toNat < 512 * s.view.cnt) :
    exec (.vlb off) s = .next (s.ret ((s.viewByte off.toNat).setWidth 32) 0) := by
  have hbyte : byteInView s off = true := decide_eq_true hin
  exact congrArg Host.Outcome.next ((if_pos hview).trans (if_pos hbyte))

/-- `VLW` inside the view (R144). -/
theorem exec_vlw_inView {s : State} {off : Word} (hview : s.view.valid = true) (hin : wordInView s off = true) :
    exec (.vlw off) s = .next (s.ret (s.viewLoad off.toNat) 0) :=
  congrArg Host.Outcome.next ((if_pos hview).trans (if_pos hin))

/-- `VSW` inside the view (R145). -/
theorem exec_vsw_inView {s : State} {off : Word} (val : Word) (hview : s.view.valid = true)
    (hin : wordInView s off = true) : exec (.vsw off val) s = .next ((s.setViewWord off.toNat val).ret 0 0) :=
  congrArg Host.Outcome.next ((if_pos hview).trans (if_pos hin))

/-! ### A stored word read back (R60) -/

/-- The slot a word store goes to holds the block with that word written. -/
theorem data_setViewWord {s : State} {off : Nat} (v : Word) (hslot : s.viewSlot off < s.slots.length) :
    ((s.setViewWord off v).slot (s.viewSlot off)).data =
      blockSetWord (s.slot (s.viewSlot off)).data (off % blockBytes) v := by
  rw [State.setViewWord, State.setSlotData, slot_setSlot, if_pos ⟨rfl, hslot⟩]

theorem viewLoad_setViewWord {s : State} {off : Nat} (v : Word) (hslot : s.viewSlot off < s.slots.length)
    (halign : off % 4 = 0) : (s.setViewWord off v).viewLoad off = v := by
  have hfits : off % 512 + 4 ≤ 512 := by omega
  exact (congrArg (blockWord · (off % 512)) (data_setViewWord v hslot)).trans (blockWord_setWord _ v hfits)

/-- The four bytes of an aligned word lie in one slot (R63), in little-endian order. -/
theorem viewByte_setViewWord {s : State} {off q : Nat} (v : Word) (hslot : s.viewSlot off < s.slots.length)
    (halign : off % 4 = 0) (hq : q < 4) : (s.setViewWord off v).viewByte (off + q) = le32Byte v q := by
  have hsame : (s.setViewWord off v).viewSlot (off + q) = s.viewSlot off :=
    congrArg (s.view.base + ·) (show (off + q) / 512 = off / 512 by omega)
  have hbyte : (off + q) % blockBytes = off % blockBytes + q := by
    simp only [blockBytes]
    omega
  have hfits : off % blockBytes + 4 ≤ 512 := by
    simp only [blockBytes]
    omega
  rw [State.viewByte, hsame, data_setViewWord v hslot, hbyte, blockByte_setWord _ v _ hfits, if_pos (by omega),
    Nat.add_sub_cancel_left]

/-- Settles O33. An aligned word ends at `2^32` at most, so the offsets of its bytes do not wrap. -/
theorem storedWordReadsBack : Obligations.StoredWordReadsBack := by
  intro s off val hview hpool halign hend
  have hword : wordInView s off = true := (wordInView_iff s off).mpr ⟨halign, hend⟩
  have hslot : s.viewSlot off.toNat < s.slots.length := by
    simp only [State.viewSlot, blockBytes]
    omega
  refine ⟨_, exec_vsw_inView val hview hword, ⟨_, exec_vlw_inView hview hword, rfl, ?_⟩, fun q hq => ?_⟩
  · exact viewLoad_setViewWord val hslot halign
  · have hoff : (off + BitVec.ofNat 32 q).toNat = off.toNat + q := by
      have hlt := off.isLt
      rw [BitVec.toNat_add, BitVec.toNat_ofNat]
      omega
    have hin : (off + BitVec.ofNat 32 q).toNat < 512 * s.view.cnt := by omega
    refine ⟨_, exec_vlb_inView hview hin, rfl, ?_⟩
    have hload : ((s.setViewWord off.toNat val).ret 0 0).viewByte (off + BitVec.ofNat 32 q).toNat = le32Byte val q :=
      hoff ▸ viewByte_setViewWord val hslot halign hq
    have hwide := (le32Byte val q).isLt
    rw [State.ret, finish_res0, hload, BitVec.toNat_setWidth, Nat.mod_eq_of_lt (by omega), le32Byte_toNat]

/-! ### Loads of a register (R40, R67) -/

/-- Settles O58. A load ends no wait, so the step takes it. -/
theorem registerLoadHasNoSideEffect : Obligations.RegisterLoadHasNoSideEffect := by
  intro s width off rest hin
  rcases step_cases s with ⟨r, rep, t, -, hreply, -⟩ | ⟨-, hstep⟩
  · rw [State.reply, hin] at hreply
    cases hreply
  · rw [hstep, State.takeInput, hin]
    rfl

end Sys2Proof.Machine

/-! # The decoder and the encoder (R90 to R95, R100)

The value R94 compares is `rsv`, a zero byte and `op`; what the opcode map can answer is said once (`decodeOp_cases`). -/

namespace Sys2Proof

open Sys2Proof.Machine Sys2Proof.Claims

/-! ### The fields of the first word (R91) -/

theorem cmd0_eq_fields (d : Descriptor) : d.cmd0 = d.rsv ++ (d.k ++ d.op) := by
  have hlow : d.k ++ d.op = d.cmd0.extractLsb' 0 16 := BitVec.extractLsb'_append_extractLsb'_eq_extractLsb' rfl
  have hword : d.rsv ++ d.cmd0.extractLsb' 0 16 = d.cmd0.extractLsb' 0 32 :=
    BitVec.extractLsb'_append_extractLsb'_eq_extractLsb' rfl
  rw [hlow, hword, BitVec.extractLsb'_eq_self]

/-- R94's mask keeps `rsv` and `op` and clears `k`. -/
theorem cmd0_masked (d : Descriptor) : d.cmd0 &&& 0xFFFF00FF#32 = d.rsv ++ (0#8 ++ d.op) := by
  have hmask : 0xFFFF00FF#32 = BitVec.allOnes 16 ++ (0#8 ++ BitVec.allOnes 8) := by decide
  rw [cmd0_eq_fields, hmask, BitVec.and_append, BitVec.and_append, BitVec.and_allOnes, BitVec.and_zero, BitVec.and_allOnes]

theorem cmd0_masked_toNat (d : Descriptor) :
    (d.cmd0 &&& 0xFFFF00FF#32).toNat = 65536 * d.rsv.toNat + d.op.toNat := by
  have hop := d.op.isLt
  rw [cmd0_masked, BitVec.toNat_append, BitVec.toNat_append, ← Nat.shiftLeft_add_eq_or_of_lt (by simp; omega)]
  simp [Nat.shiftLeft_eq, Nat.mul_comm]

/-- The masked word is a byte exactly when `rsv` is zero and the byte is `op` (R94). -/
theorem cmd0_masked_eq_byte_iff (d : Descriptor) (c : Byte) :
    d.cmd0 &&& 0xFFFF00FF#32 = c.setWidth 32 ↔ d.rsv = 0 ∧ d.op = c := by
  have hop := d.op.isLt
  have hc := c.isLt
  rw [← BitVec.toNat_inj, ← BitVec.toNat_inj, ← BitVec.toNat_inj, cmd0_masked_toNat, BitVec.toNat_setWidth]
  change _ ↔ d.rsv.toNat = 0 ∧ _
  omega

theorem k_eq_shiftRight (d : Descriptor) : (d.cmd0 >>> (8 : Nat)).setWidth 8 = d.k :=
  BitVec.eq_of_toNat_eq (by simp [Descriptor.k, BitVec.extractLsb'_toNat])

/-! ### The fields of an encoded first word (R91, R100) -/

theorem encodeCmd0_op {op : Nat} (k : Byte) : (encodeCmd0 op k).extractLsb' 0 8 = BitVec.ofNat 8 op := by
  apply BitVec.eq_of_toNat_eq
  simp only [encodeCmd0, BitVec.extractLsb'_toNat, BitVec.toNat_ofNat, Nat.shiftRight_eq_div_pow]
  omega

theorem encodeCmd0_k {op : Nat} (h : op < 256) (k : Byte) : (encodeCmd0 op k).extractLsb' 8 8 = k := by
  have hk := k.isLt
  apply BitVec.eq_of_toNat_eq
  simp only [encodeCmd0, BitVec.extractLsb'_toNat, BitVec.toNat_ofNat, Nat.shiftRight_eq_div_pow]
  omega

/-- An encoded command has zero reserved bits, whichever it is (R94). -/
theorem encode_rsv (i : Instr) : (encode i).rsv = 0 := by
  cases i <;> exact Laws.EncodeReserved.cmd0_rsv (by decide) _

/-! ### What the decoder can answer (R94, R95) -/

/-- The opcode map gives a command whose opcode is the one it read, or reads none of the 22. -/
theorem decodeOp_cases (op k : Byte) (a b : Word) :
    (op.toNat ∈ opcodes ∧ ∃ i, decodeOp op k a b = .ok i ∧ (encode i).op = op) ∨
      (op.toNat ∉ opcodes ∧ decodeOp op k a b = .error .unknownOpcode) := by
  unfold decodeOp
  split
  case h_23 => exact .inr ⟨by simp_all [opcodes], rfl⟩
  all_goals
    rename_i hop
    have hbyte : BitVec.ofNat 8 op.toNat = op := BitVec.ofNat_toNat _ _
    rw [hop] at hbyte
    exact .inl ⟨hop ▸ by decide, _, rfl, (encodeCmd0_op _).trans hbyte⟩

theorem decode_of_rsv_eq_zero {d : Descriptor} (h : d.rsv = 0) : decode d = decodeOp d.op d.k d.a d.b :=
  if_neg (not_not_intro h)

theorem decode_of_rsv_ne_zero {d : Descriptor} (h : d.rsv ≠ 0) : decode d = .error .reservedBits :=
  if_pos h

theorem rsv_eq_zero_of_decode {d : Descriptor} {i : Instr} (h : decode d = .ok i) : d.rsv = 0 := by
  by_contra hrsv
  rw [decode_of_rsv_ne_zero hrsv] at h
  cases h

theorem op_encode_of_decodeOp {op k : Byte} {a b : Word} {i : Instr} (h : decodeOp op k a b = .ok i) :
    (encode i).op = op := by
  rcases decodeOp_cases op k a b with ⟨-, j, hj, hop⟩ | ⟨-, herr⟩
  · cases hj.symm.trans h
    exact hop
  · cases herr.symm.trans h

/-- The encoding of the command a descriptor selects agrees with it in `rsv` and `op`. -/
theorem rsv_op_of_decode {d : Descriptor} {i : Instr} (h : decode d = .ok i) : d.rsv = 0 ∧ d.op = (encode i).op := by
  have hrsv := rsv_eq_zero_of_decode h
  rw [decode_of_rsv_eq_zero hrsv] at h
  exact ⟨hrsv, (op_encode_of_decodeOp h).symm⟩

/-- R94 for one command: the opcode map reads `c` as the command `i`, so a descriptor with these operands is `i` exactly when
its masked word is `c`. -/
theorem decode_eq_ok_iff {d : Descriptor} {i : Instr} {c : Byte} (hmap : decodeOp c d.k d.a d.b = .ok i) :
    decode d = .ok i ↔ d.cmd0 &&& 0xFFFF00FF#32 = c.setWidth 32 := by
  rw [cmd0_masked_eq_byte_iff]
  constructor
  · intro h
    obtain ⟨hrsv, hop⟩ := rsv_op_of_decode h
    exact ⟨hrsv, hop.trans (op_encode_of_decodeOp hmap)⟩
  · rintro ⟨hrsv, rfl⟩
    rw [decode_of_rsv_eq_zero hrsv, hmap]

/-- A descriptor is a command exactly when its masked word is one of the 22 opcodes; with `rsv` not zero that word is past
them all. -/
theorem exists_decode_eq_ok_iff (d : Descriptor) :
    (∃ i, decode d = .ok i) ↔ (d.cmd0 &&& 0xFFFF00FF#32).toNat ∈ opcodes := by
  rw [cmd0_masked_toNat]
  by_cases hrsv : d.rsv = 0
  · have hword : 65536 * d.rsv.toNat + d.op.toNat = d.op.toNat := by simp [hrsv]
    rw [decode_of_rsv_eq_zero hrsv, hword]
    rcases decodeOp_cases d.op d.k d.a d.b with ⟨hmem, i, hi, -⟩ | ⟨hmem, herr⟩
    · exact iff_of_true ⟨i, hi⟩ hmem
    · exact iff_of_false (by simp [herr]) hmem
  · have hsmall : ∀ c ∈ opcodes, c < 65536 := by decide
    have hpos : 0 < d.rsv.toNat := Nat.pos_of_ne_zero fun h => hrsv (BitVec.eq_of_toNat_eq h)
    refine iff_of_false (by simp [decode_of_rsv_ne_zero hrsv]) fun hmem => ?_
    have := hsmall _ hmem
    omega

/-! ### Encoding and decoding (R100) -/

theorem decode_encodeCmd0 {op : Nat} (h : op < 256) (k : Byte) (a b : Word) :
    decode ⟨encodeCmd0 op k, a, b⟩ = decodeOp (BitVec.ofNat 8 op) k a b := by
  rw [decode_of_rsv_eq_zero (d := ⟨encodeCmd0 op k, a, b⟩) (Laws.EncodeReserved.cmd0_rsv h k)]
  exact congrArg₂ (decodeOp · · a b) (encodeCmd0_op k) (encodeCmd0_k h k)

/-- Each command's opcode is a byte, and the opcode map reads it back by evaluation (R94, R100). -/
theorem decode_encode (i : Instr) : decode (encode i) = .ok i := by
  cases i <;> exact decode_encodeCmd0 (by decide) _ _ _

/-- Settles O1: a decoded descriptor and its command's encoding agree in the two fields R94's mask keeps. -/
theorem decodeEncodeRoundTrip : Obligations.DecodeEncodeRoundTrip := by
  refine ⟨decode_encode, fun d i h => ?_⟩
  obtain ⟨hrsv, hop⟩ := rsv_op_of_decode h
  rw [cmd0_masked, cmd0_masked, encode_rsv, hrsv, hop]

/-- Settles O2: the opcode map reads each of the 22 opcodes as its command, by evaluation. -/
theorem decodeByMaskAndMatch : Obligations.DecodeByMaskAndMatch := by
  intro d m k
  have hk : k = d.k := k_eq_shiftRight d
  rw [hk]
  exact ⟨decode_eq_ok_iff (c := 0x00) rfl, decode_eq_ok_iff (c := 0x10) rfl, decode_eq_ok_iff (c := 0x11) rfl,
    decode_eq_ok_iff (c := 0x12) rfl, decode_eq_ok_iff (c := 0x13) rfl, decode_eq_ok_iff (c := 0x14) rfl,
    decode_eq_ok_iff (c := 0x18) rfl, decode_eq_ok_iff (c := 0x19) rfl, decode_eq_ok_iff (c := 0x1A) rfl,
    decode_eq_ok_iff (c := 0x1B) rfl, decode_eq_ok_iff (c := 0x20) rfl, decode_eq_ok_iff (c := 0x21) rfl,
    decode_eq_ok_iff (c := 0x22) rfl, decode_eq_ok_iff (c := 0x23) rfl, decode_eq_ok_iff (c := 0x24) rfl,
    decode_eq_ok_iff (c := 0x25) rfl, decode_eq_ok_iff (c := 0x26) rfl, decode_eq_ok_iff (c := 0x27) rfl,
    decode_eq_ok_iff (c := 0x28) rfl, decode_eq_ok_iff (c := 0x29) rfl, decode_eq_ok_iff (c := 0x2A) rfl,
    decode_eq_ok_iff (c := 0x2B) rfl, exists_decode_eq_ok_iff d⟩

/-- Settles O3: nine closed words, decoded. -/
theorem sampleWordsDecode : Obligations.SampleWordsDecode := by
  unfold Obligations.SampleWordsDecode
  decide

/-! ### A launched descriptor that is no command (R95, R291) -/

theorem decode_eq_error {d : Descriptor} (h : (d.cmd0 &&& 0xFFFF00FF#32).toNat ∉ opcodes) : ∃ e, decode d = .error e := by
  cases hd : decode d with
  | ok i => exact absurd ((exists_decode_eq_ok_iff d).mp ⟨i, hd⟩) h
  | error e => exact ⟨e, rfl⟩

theorem runCommand_of_decode_error {s : State} {e : Reject} (h : decode s.descriptor = .error e) :
    s.runCommand = .next (s.finish .illegalCommand s.cmd0 0) := by
  rw [State.runCommand, h]

/-- A store to `CMD0` while not busy launches the descriptor (R41). -/
theorem busWrite_launch {s : State} (hbusy : s.busy = false) (v : Word) :
    s.busWrite 4 0 v = (s.launch v).runCommand := by
  simp [State.busWrite, hbusy]

/-- Settles O4: the launched descriptor is rejected, and `finish` is the whole command. -/
theorem illegalCommandReport : Obligations.IllegalCommandReport := by
  intro s v rest hseq hbusy hin hmask
  obtain ⟨e, herr⟩ := decode_eq_error (d := (State.launch { s with inputs := rest } v).descriptor) hmask
  rw [step_write hin fun r => not_wait_of_idle hseq, busWrite_launch (s := { s with inputs := rest }) hbusy,
    runCommand_of_decode_error herr]
  rfl

end Sys2Proof

/-! # Selection (R120 to R126)

The windows of the claims are the ones the model's searches find. The state of `Construct` on its way to a slot is written as
one update of the state it began with (`State.constructed`); a pass moves it to the next slot, so the end of the command and a
failure at any write-back both read off it. -/

namespace Sys2Proof.Machine

open Sys2Proof Sys2Proof.Claims

/-! ### The window of `SEL` (R122) -/

/-- A hit is extended as far as it goes (R122 step 1). -/
theorem hitLength_stops {s : State} {i : Nat} {start : Word} (hlt : i + s.hitLength i start < s.slots.length)
    (hle : start.toNat + s.hitLength i start ≤ 0xFFFFFFFF) :
    s.caches (i + s.hitLength i start) (start.toNat + s.hitLength i start) = false := by
  obtain ⟨-, -, -, hfails⟩ := countUp_spec (fun c => i + c < s.slots.length && start.toNat + c ≤ maxBlock &&
    s.caches (i + c) (start.toNat + c)) s.slots.length 1
  have hp : (decide (i + s.hitLength i start < s.slots.length) && decide (start.toNat + s.hitLength i start ≤ maxBlock) &&
      s.caches (i + s.hitLength i start) (start.toNat + s.hitLength i start)) = false :=
    hfails (show s.hitLength i start < 1 + s.slots.length by omega)
  simpa only [hlt, hle, decide_true, Bool.true_and] using hp

/-- The extension of a hit is the only length that neither exceeds the blocks in place nor leaves one out (R122 step 1). -/
theorem hitLength_eq_iff {s : State} {i cnt : Nat} {start : Word} (hi : s.caches i start.toNat = true) :
    s.hitLength i start = cnt ↔
      1 ≤ cnt ∧ i + cnt ≤ s.slots.length ∧ (∀ q < cnt, s.caches (i + q) (start.toNat + q) = true) ∧
        (i + cnt < s.slots.length → start.toNat + cnt ≤ 0xFFFFFFFF →
          s.caches (i + cnt) (start.toNat + cnt) = false) := by
  constructor
  · rintro rfl
    have hpos := one_le_hitLength s i start
    have hlast := (hitLength_caches hi (Nat.sub_one_lt_of_lt hpos)).1
    exact ⟨hpos, by omega, fun q hq => (hitLength_caches hi hq).2.2, hitLength_stops⟩
  · rintro ⟨-, hlen, hall, hmax⟩
    rcases Nat.lt_trichotomy (s.hitLength i start) cnt with hlt | heq | hgt
    · have hc := hall _ hlt
      have hblock := ((caches_iff s _ _).mp hc).2 ▸ (s.slot (i + s.hitLength i start)).tag.isLt
      exact absurd hc (Bool.eq_false_iff.mp (hitLength_stops (by omega) (by omega)))
    · exact heq
    · obtain ⟨hlt, hblock, hc⟩ := hitLength_caches hi hgt
      exact absurd hc (Bool.eq_false_iff.mp (hmax hlt (by omega)))

theorem predecessor_eq_some_iff {s : State} {n i : Nat} {start : Word} :
    s.predecessor n start = some i ↔
      1 ≤ start.toNat ∧ i < n ∧ s.caches i (start.toNat - 1) = true ∧ ∀ k < i, s.caches k (start.toNat - 1) = false := by
  unfold State.predecessor
  split
  · rw [lowest_some, and_iff_right ‹1 ≤ start.toNat›]
  · exact iff_of_false nofun fun h => absurd h.1 ‹¬ 1 ≤ start.toNat›

theorem predecessor_eq_none_iff {s : State} {n : Nat} {start : Word} :
    s.predecessor n start = none ↔ start.toNat = 0 ∨ ∀ i < n, s.caches i (start.toNat - 1) = false := by
  unfold State.predecessor
  split
  · rw [lowest_none, or_iff_right (by omega)]
  · exact iff_of_true rfl (.inl (by omega))

/-- Steps 2 and 3 of R122 and R123: the slot after the first one below `n` that caches the block before `start`, else slot 0.
The claims bound that slot by `bound`. -/
theorem predecessor_elim_eq_iff {s : State} {n base : Nat} {start : Word} {bound : Nat → Prop}
    (hbound : ∀ i, i < n ↔ bound i) :
    (s.predecessor n start).elim 0 (· + 1) = base ↔
      (∃ i, base = i + 1 ∧ bound i ∧ 1 ≤ start.toNat ∧ s.caches i (start.toNat - 1) = true ∧
          ∀ k < i, s.caches k (start.toNat - 1) = false) ∨
        (base = 0 ∧ (start.toNat = 0 ∨ ∀ i, bound i → s.caches i (start.toNat - 1) = false)) := by
  simp only [← hbound]
  cases hpred : s.predecessor n start with
  | some i =>
    obtain ⟨hpos, hi, hc, hmin⟩ := predecessor_eq_some_iff.mp hpred
    constructor
    · rintro rfl
      exact .inl ⟨i, rfl, hi, hpos, hc, hmin⟩
    · rintro (⟨k, rfl, hk, hpos, hc, hmin⟩ | ⟨-, hnone⟩)
      · exact congrArg (· + 1) (Option.some.inj (hpred.symm.trans (predecessor_eq_some_iff.mpr ⟨hpos, hk, hc, hmin⟩)))
      · cases hpred.symm.trans (predecessor_eq_none_iff.mpr hnone)
  | none =>
    constructor
    · rintro rfl
      exact .inr ⟨rfl, predecessor_eq_none_iff.mp hpred⟩
    · rintro (⟨k, rfl, hk, hpos, hc, hmin⟩ | ⟨rfl, -⟩)
      · cases hpred.symm.trans (predecessor_eq_some_iff.mpr ⟨hpos, hk, hc, hmin⟩)
      · rfl

theorem selPlan_of_hit {s : State} {start : Word} {i : Nat}
    (h : (lowest s.slots.length fun i => s.caches i start.toNat) = some i) :
    s.selPlan start = (i, s.hitLength i start) := by
  rw [State.selPlan, h]

theorem selPlan_of_miss {s : State} {start : Word} (h : (lowest s.slots.length fun i => s.caches i start.toNat) = none) :
    s.selPlan start = ((s.predecessor (s.slots.length - 1) start).elim 0 (· + 1), 1) := by
  rw [State.selPlan, h]
  cases s.predecessor (s.slots.length - 1) start <;> rfl

/-- The model's search finds R122's window, and there is no other. -/
theorem selPlan_eq_iff (s : State) (start : Word) (base cnt : Nat) :
    s.selPlan start = (base, cnt) ↔ isSelPlan s start base cnt := by
  cases hlow : lowest s.slots.length fun i => s.caches i start.toNat with
  | some i =>
    obtain ⟨hi, hc, hmin⟩ := lowest_some.mp hlow
    rw [selPlan_of_hit hlow, Prod.mk.injEq]
    constructor
    · rintro ⟨rfl, hlen⟩
      exact .inl ⟨hc, hmin, (hitLength_eq_iff hc).mp hlen⟩
    · rintro (⟨hc', hmin', hlen⟩ | ⟨hmiss, -⟩)
      · have hlt := slot_lt_of_valid s ((caches_iff s _ _).mp hc').1
        obtain rfl := Option.some.inj (hlow.symm.trans (lowest_some.mpr ⟨hlt, hc', hmin'⟩))
        exact ⟨rfl, (hitLength_eq_iff hc).mpr hlen⟩
      · exact absurd hc (Bool.eq_false_iff.mp (hmiss i hi))
  | none =>
    have hmiss := lowest_none.mp hlow
    have hbase := predecessor_elim_eq_iff (s := s) (n := s.slots.length - 1) (base := base) (start := start)
      (bound := fun i => i + 1 < s.slots.length) fun i => by omega
    rw [selPlan_of_miss hlow, Prod.mk.injEq, hbase]
    constructor
    · rintro ⟨hpred, rfl⟩
      exact .inr ⟨hmiss, rfl, hpred⟩
    · rintro (⟨hc, -⟩ | ⟨-, rfl, hpred⟩)
      · exact absurd hc (Bool.eq_false_iff.mp (hmiss base (slot_lt_of_valid s ((caches_iff s _ _).mp hc).1)))
      · exact ⟨hpred, rfl⟩

/-! ### The window of `SELX` (R123) -/

theorem selxBase_of_hit {s : State} {len i : Nat} {start : Word}
    (h : (lowest (s.slots.length - len + 1) fun i => s.caches i start.toNat) = some i) : s.selxBase len start = i := by
  rw [State.selxBase, h]

theorem selxBase_of_miss {s : State} {len : Nat} {start : Word}
    (h : (lowest (s.slots.length - len + 1) fun i => s.caches i start.toNat) = none) :
    s.selxBase len start = (s.predecessor (s.slots.length - len) start).elim 0 (· + 1) := by
  rw [State.selxBase, h]
  cases s.predecessor (s.slots.length - len) start <;> rfl

/-- The model's search finds R123's first slot, and there is no other. -/
theorem selxBase_eq_iff {s : State} {len : Nat} (start : Word) (base : Nat) (hlen : len ≤ s.slots.length) :
    s.selxBase len start = base ↔ isSelxBase s len start base := by
  have hfit (k : Nat) : k < s.slots.length - len + 1 ↔ k + len ≤ s.slots.length := by omega
  cases hlow : lowest (s.slots.length - len + 1) fun i => s.caches i start.toNat with
  | some i =>
    obtain ⟨hi, hc, hmin⟩ := lowest_some.mp hlow
    rw [selxBase_of_hit hlow]
    constructor
    · rintro rfl
      exact .inl ⟨(hfit i).mp hi, hc, hmin⟩
    · rintro (⟨hi', hc', hmin'⟩ | ⟨hmiss, -⟩)
      · exact Option.some.inj (hlow.symm.trans (lowest_some.mpr ⟨(hfit base).mpr hi', hc', hmin'⟩))
      · exact absurd hc (Bool.eq_false_iff.mp (hmiss i ((hfit i).mp hi)))
  | none =>
    have hmiss := lowest_none.mp hlow
    have hbase := predecessor_elim_eq_iff (s := s) (n := s.slots.length - len) (base := base) (start := start)
      (bound := fun i => i + 1 + len ≤ s.slots.length) fun i => by omega
    rw [selxBase_of_miss hlow, hbase]
    constructor
    · exact fun hpred => .inr ⟨fun k hk => hmiss k ((hfit k).mpr hk), hpred⟩
    · rintro (⟨hi, hc, -⟩ | ⟨-, hpred⟩)
      · exact absurd hc (Bool.eq_false_iff.mp (hmiss base ((hfit base).mpr hi)))
      · exact hpred

/-- `SEL` constructs its window (R120, R122). -/
theorem exec_sel {s : State} {start : Word} {base cnt : Nat} (h : isSelPlan s start base cnt) :
    exec (.sel start) s = .next (constructLoop base cnt start cnt base s.dropView) := by
  have hplan := (selPlan_eq_iff s start base cnt).mpr h
  change Host.Outcome.next (s.construct (s.selPlan start).1 (s.selPlan start).2 start) = _
  rw [hplan]
  rfl

/-- `SELX` with operands in range constructs its window (R120, R123). -/
theorem exec_selx {s : State} {len : Byte} {start : Word} {base : Nat} (hpos : 1 ≤ len.toNat)
    (hlen : len.toNat ≤ s.slots.length) (hend : start.toNat + len.toNat ≤ 2 ^ 32)
    (h : isSelxBase s len.toNat start base) :
    exec (.selx len start) s = .next (constructLoop base len.toNat start len.toNat base s.dropView) := by
  have hbase := (selxBase_eq_iff start base hlen).mpr h
  change Host.Outcome.next (if s.selxInRange len start then s.construct (s.selxBase len.toNat start) len.toNat start
    else s.raise .badOperand) = _
  rw [if_pos ((selxInRange_iff s len start).mpr ⟨hpos, hlen, hend⟩), hbase]
  rfl

/-! ### The end of a transaction by an error or a cancel (R206, R207, R209) -/

/-- A wait that an error or a cancel ends spoils what the request covers (R206, R207, R211). -/
theorem reply_failsWith {s : State} {r : Request} {x : Input} {rep : Reply} {rest : List Input} (hin : s.inputs = x :: rest)
    (hx : failsWith x rep) :
    s.reply r = some (rep, ((State.logged { s with inputs := rest } r rep).spoilBuffer r).spoilMedium r) := by
  rcases hx with ⟨e, rfl, rfl⟩ | ⟨⟨v, hcancel, hreset, rfl | ⟨a, rfl⟩⟩, rfl⟩
  · exact reply_device hin
  · simp [State.reply, hin, show ctrlCancel v = true from hcancel, show ctrlReset v = false from hreset, State.withdraw]
  · simp [State.reply, hin, show ctrlCancel v = true from hcancel, show ctrlReset v = false from hreset, State.withdraw]

/-- A command whose transaction did not succeed ends with its report (R286, R297). -/
theorem settle_eq_endedBy {x : Input} {rep : Reply} (hx : failsWith x rep) (t : State) (k : State → State) :
    settle rep t k = endedBy t rep := by
  rcases hx with ⟨e, -, rfl⟩ | ⟨-, rfl⟩ <;> rfl

/-- A write-back the device acknowledges: its block is on the medium, and the command goes on (R121, R207). -/
theorem await_writeBack_ok {s : State} {rest : List Input} (j : Nat) (c : Cont) (k : State → State)
    (hin : s.inputs = .device .ok :: rest) :
    s.await (s.writeBackOf j c) k = k
      { s with
        medium := Memory.writeBlock s.medium (s.slot j).tag.toNat (s.slot j).data
        devLog := s.devLog ++ [writeTxn s .ok j]
        inputs := rest } :=
  await_ok k hin

/-- A write-back that fails or is cancelled: its block is free, and the command ends (R207, R211(c); log entries 3 and 1). -/
theorem await_writeBack_failsWith {s : State} {x : Input} {rep : Reply} {rest : List Input} (j : Nat) (c : Cont)
    (k : State → State) (hin : s.inputs = x :: rest) (hx : failsWith x rep) :
    s.await (s.writeBackOf j c) k = endedBy
      { s with
        medium := Memory.writeBlock s.medium (s.slot j).tag.toNat (freeBlock s.draws)
        draws := s.draws + 1
        devLog := s.devLog ++ [writeTxn s rep j]
        inputs := rest } rep := by
  rw [State.await, reply_failsWith hin hx]
  exact settle_eq_endedBy hx _ k

/-! ### The slots a construct has passed (R121) -/

/-- States with as many slots that agree slot by slot have the same slots. -/
theorem slots_ext {s t : State} (hcount : s.slots.length = t.slots.length) (h : ∀ i, s.slot i = t.slot i) :
    s.slots = t.slots := by
  refine List.ext_getElem hcount fun i hs ht => ?_
  have hi := h i
  unfold State.slot at hi
  rwa [List.getElem?_eq_getElem hs, List.getElem?_eq_getElem ht] at hi

section
variable (s : State) (base cnt : Nat) (start : Word)

/-- The slots before `stop` whose data a construct writes back, in order (R121). -/
def victimsBefore (stop : Nat) : List Nat :=
  (List.range stop).filter fun j => repointed s base cnt start j && (s.slot j).dirty

/-- The state of a construct when it comes to slot `stop`, every write-back so far acknowledged (R121). -/
def State.constructed (stop : Nat) (rest : List Input) : State :=
  { s with
    slots := emptied s base cnt start stop
    view := { s.view with valid := false }
    medium := writtenBack s.medium s (victimsBefore s base cnt start stop)
    devLog := s.devLog ++ (victimsBefore s base cnt start stop).map (writeTxn s .ok)
    inputs := rest }

theorem repointed_iff (j : Nat) :
    repointed s base cnt start j = true ↔
      (base ≤ j ∧ j < base + cnt) ∧ (s.slot j).valid = true ∧ (s.slot j).tag.toNat ≠ start.toNat + (j - base) := by
  simp only [repointed, Bool.and_eq_true, decide_eq_true_iff, and_assoc]

theorem emptied_length (stop : Nat) : (emptied s base cnt start stop).length = s.slots.length := by
  simp [emptied, slotMap]

/-- A slot number past the pool is never repointed, so it names the default slot before and after. -/
theorem slot_constructed (stop : Nat) (rest : List Input) (i : Nat) :
    (s.constructed base cnt start stop rest).slot i =
      if repointed s base cnt start i && i < stop then { s.slot i with valid := false, dirty := false } else s.slot i := by
  by_cases hi : i < s.slots.length
  · simp [State.slot, State.constructed, emptied, slotMap, hi]
  · have hout := slot_out s (not_lt.mp hi)
    have hrep : repointed s base cnt start i = false := by
      refine Bool.eq_false_iff.mpr fun h => hi ?_
      obtain ⟨-, hvalid, -⟩ := (repointed_iff s base cnt start i).mp h
      exact slot_lt_of_valid s hvalid
    rw [slot_out _ (by rw [State.constructed, emptied_length]; exact not_lt.mp hi), hrep, hout]
    rfl

/-- A construct has not touched the slot it comes to. -/
theorem slot_constructed_self (stop : Nat) (rest : List Input) :
    (s.constructed base cnt start stop rest).slot stop = s.slot stop := by
  rw [slot_constructed]
  simp

theorem victimsBefore_succ (j : Nat) :
    victimsBefore s base cnt start (j + 1) =
      victimsBefore s base cnt start j ++ if repointed s base cnt start j && (s.slot j).dirty then [j] else [] := by
  rw [victimsBefore, List.range_succ, List.filter_append, List.filter_singleton, Bool.cond_eq_ite]
  rfl

theorem writtenBack_concat (m : Memory) (js : List Nat) (j : Nat) :
    writtenBack m s (js ++ [j]) =
      Memory.writeBlock (writtenBack m s js) (s.slot j).tag.toNat (s.slot j).data := by
  simp [writtenBack]

variable {s base cnt start}

/-- Slots that are not repointed make no difference to the slots written back. -/
theorem victimsBefore_eq_of_le {n m : Nat} (hnm : n ≤ m) (h : ∀ i, n ≤ i → repointed s base cnt start i = false) :
    victimsBefore s base cnt start m = victimsBefore s base cnt start n := by
  induction m, hnm using Nat.le_induction with
  | base => rfl
  | succ m hm ih => rw [victimsBefore_succ, ih, h m hm, Bool.false_and, if_neg Bool.false_ne_true, List.append_nil]

theorem repointed_eq_false_of_not_window {i : Nat} (h : ¬ (base ≤ i ∧ i < base + cnt)) :
    repointed s base cnt start i = false :=
  Bool.eq_false_iff.mpr fun hrep => h ((repointed_iff s base cnt start i).mp hrep).1

theorem lt_of_repointed {i : Nat} (h : repointed s base cnt start i = true) : i < s.slots.length :=
  slot_lt_of_valid s ((repointed_iff s base cnt start i).mp h).2.1

/-- Every slot to write back stands before the end of the window. -/
theorem victims_eq_victimsBefore : victims s base cnt start = victimsBefore s base cnt start (base + cnt) := by
  have hpool := victimsBefore_eq_of_le (s := s) (base := base) (cnt := cnt) (start := start)
    (Nat.le_add_right s.slots.length (base + cnt)) fun i hi => Bool.eq_false_iff.mpr fun h => by
      have := lt_of_repointed h
      omega
  have hwindow := victimsBefore_eq_of_le (s := s) (base := base) (cnt := cnt) (start := start)
    (Nat.le_add_left (base + cnt) s.slots.length) fun i hi => repointed_eq_false_of_not_window (by omega)
  exact hpool.symm.trans hwindow

theorem victimsBefore_prefix {n m : Nat} (hnm : n ≤ m) :
    victimsBefore s base cnt start n <+: victimsBefore s base cnt start m := by
  induction m, hnm using Nat.le_induction with
  | base => exact List.prefix_refl _
  | succ m _ ih =>
    rw [victimsBefore_succ]
    exact ih.trans (List.prefix_append _ _)

theorem mem_victims {j : Nat} (h : j ∈ victims s base cnt start) :
    repointed s base cnt start j = true ∧ (s.slot j).dirty = true := by
  rw [victims, List.mem_filter, Bool.and_eq_true] at h
  exact h.2

/-- No victim stands before the window. -/
theorem victimsBefore_base : victimsBefore s base cnt start base = [] := by
  refine List.filter_eq_nil_iff.mpr fun i hi => ?_
  have hlt := List.mem_range.mp hi
  rw [repointed_eq_false_of_not_window (by omega), Bool.false_and]
  exact Bool.false_ne_true

/-- A construct begins at the first slot of its window. -/
theorem constructed_base {rest : List Input} (hin : s.inputs = rest) :
    s.constructed base cnt start base rest = s.dropView := by
  have hslots : emptied s base cnt start base = s.slots :=
    slots_ext (s := s.constructed base cnt start base rest) (emptied_length ..) fun i => by
      rw [slot_constructed, if_neg]
      rw [Bool.and_eq_true, decide_eq_true_iff]
      rintro ⟨hrep, hlt⟩
      obtain ⟨⟨hle, -⟩, -⟩ := (repointed_iff s base cnt start i).mp hrep
      omega
  rw [State.constructed, hslots, victimsBefore_base, List.map_nil, List.append_nil, ← hin]
  rfl

/-- At the end of its window a construct has passed every slot it repoints. -/
theorem emptied_window_end : emptied s base cnt start (base + cnt) = emptied s base cnt start s.slots.length :=
  List.map_congr_left fun i hi => by
    have hlt := List.mem_range.mp hi
    cases hrep : repointed s base cnt start i with
    | false => rfl
    | true =>
      obtain ⟨⟨-, hend⟩, -⟩ := (repointed_iff s base cnt start i).mp hrep
      simp only [hlt, hend]

/-- Where the victim number `k` stands, `k` victims stand before it. -/
theorem victimsBefore_eq_take {k j : Nat} (h : (victims s base cnt start)[k]? = some j) :
    victimsBefore s base cnt start j = (victims s base cnt start).take k := by
  obtain ⟨hrep, hd⟩ := mem_victims (List.mem_of_getElem? h)
  obtain ⟨rest, hrest⟩ := victimsBefore_prefix (s := s) (base := base) (cnt := cnt) (start := start)
    (Nat.succ_le_of_lt (lt_of_repointed hrep))
  have hsplit : victims s base cnt start = victimsBefore s base cnt start j ++ j :: rest := by
    rw [victimsBefore_succ, hrep, hd, Bool.true_and, if_pos rfl, List.append_assoc] at hrest
    exact hrest.symm
  have hat : (victims s base cnt start)[(victimsBefore s base cnt start j).length]? = some j := by
    simp [hsplit]
  have hnodup : (victims s base cnt start).Nodup := List.nodup_range.filter _
  have hk : (victimsBefore s base cnt start j).length = k :=
    (List.getElem?_inj (List.getElem?_eq_some_iff.mp hat).1 hnodup).mp (hat.trans h.symm)
  rw [hsplit, ← hk, List.take_left]

/-! ### Passing one slot -/

theorem slot_constructed_succ (j : Nat) (rest : List Input) (i : Nat) :
    (s.constructed base cnt start (j + 1) rest).slot i =
      if i = j then if repointed s base cnt start j then { s.slot j with valid := false, dirty := false } else s.slot j
      else (s.constructed base cnt start j rest).slot i := by
  rw [slot_constructed, slot_constructed]
  by_cases hij : i = j
  · subst hij
    simp
  · rw [if_neg hij, decide_eq_decide.mpr (show i < j + 1 ↔ i < j by omega)]

/-- A slot that is Empty or holds its block stays as it is. -/
theorem constructed_succ_of_kept {j : Nat} (h : repointed s base cnt start j = false) (rest : List Input) :
    s.constructed base cnt start (j + 1) rest = s.constructed base cnt start j rest := by
  have hslots : emptied s base cnt start (j + 1) = emptied s base cnt start j :=
    slots_ext (s := s.constructed base cnt start (j + 1) rest) (t := s.constructed base cnt start j rest)
      (by simp [State.constructed, emptied_length]) fun i => by
        rw [slot_constructed_succ, h]
        split
        · subst i
          exact (slot_constructed_self ..).symm
        · rfl
  have hvictims : victimsBefore s base cnt start (j + 1) = victimsBefore s base cnt start j := by
    simp [victimsBefore_succ, h]
  rw [State.constructed, hslots, hvictims]
  rfl

/-- A clean mismatched slot is emptied. -/
theorem constructed_succ_of_clean {j : Nat} (h : repointed s base cnt start j = true) (hd : (s.slot j).dirty = false)
    (rest : List Input) :
    s.constructed base cnt start (j + 1) rest = (s.constructed base cnt start j rest).invalidateSlot j := by
  have hslots : emptied s base cnt start (j + 1) = ((s.constructed base cnt start j rest).invalidateSlot j).slots :=
    slots_ext (s := s.constructed base cnt start (j + 1) rest)
      (by simp [State.invalidateSlot, State.constructed, emptied_length]) fun i => by
        rw [slot_constructed_succ, slot_invalidateSlot, slot_constructed_self, h, if_pos rfl, ← hd]
  have hvictims : victimsBefore s base cnt start (j + 1) = victimsBefore s base cnt start j := by
    simp [victimsBefore_succ, hd]
  rw [State.constructed, hslots, hvictims]
  rfl

/-- A dirty mismatched slot is written back, cleaned and emptied. -/
theorem constructed_succ_of_dirty {j : Nat} (h : repointed s base cnt start j = true) (hd : (s.slot j).dirty = true)
    (rest : List Input) :
    s.constructed base cnt start (j + 1) rest =
      (State.cleanSlot
        { s.constructed base cnt start j rest with
          medium := Memory.writeBlock (s.constructed base cnt start j rest).medium (s.slot j).tag.toNat (s.slot j).data
          devLog := (s.constructed base cnt start j rest).devLog ++ [writeTxn s .ok j] } j).invalidateSlot j := by
  have hslots : emptied s base cnt start (j + 1) =
      (((s.constructed base cnt start j rest).cleanSlot j).invalidateSlot j).slots :=
    slots_ext (s := s.constructed base cnt start (j + 1) rest)
      (by simp [State.invalidateSlot, State.cleanSlot, State.constructed, emptied_length]) fun i => by
        rw [slot_constructed_succ, slot_invalidateSlot, slot_cleanSlot, slot_cleanSlot, slot_constructed_self, h, if_pos rfl,
          if_pos rfl]
        split <;> rfl
  have hvictims : victimsBefore s base cnt start (j + 1) = victimsBefore s base cnt start j ++ [j] := by
    simp [victimsBefore_succ, h, hd]
  rw [State.constructed, hslots, hvictims, writtenBack_concat, List.map_append, ← List.append_assoc]
  rfl

/-- Within the window the model's test of a slot not yet passed is R121's. -/
theorem mismatched_constructed {j : Nat} (hj : base ≤ j ∧ j < base + cnt) (rest : List Input) :
    (s.constructed base cnt start j rest).mismatched j (start.toNat + (j - base)) = repointed s base cnt start j := by
  rw [Bool.eq_iff_iff, mismatched_iff, slot_constructed_self, repointed_iff, and_iff_right hj]

/-- A pass over a slot with nothing to write back takes no input (R121). -/
theorem constructLoop_pass {left j : Nat} (hj : base ≤ j ∧ j < base + cnt)
    (hv : (repointed s base cnt start j && (s.slot j).dirty) = false) (rest : List Input) :
    constructLoop base cnt start (left + 1) j (s.constructed base cnt start j rest) =
      constructLoop base cnt start left (j + 1) (s.constructed base cnt start (j + 1) rest) := by
  rw [constructLoop_succ, mismatched_constructed hj, slot_constructed_self]
  cases hrep : repointed s base cnt start j with
  | false => rw [if_neg Bool.false_ne_true, constructed_succ_of_kept hrep]
  | true =>
    rw [hrep, Bool.true_and] at hv
    rw [if_pos rfl, hv, if_neg Bool.false_ne_true, constructed_succ_of_clean hrep hv]

/-- A pass over a slot to write back is a suspension point (R121). -/
theorem constructLoop_await {left j : Nat} (hj : base ≤ j ∧ j < base + cnt) (hrep : repointed s base cnt start j = true)
    (hd : (s.slot j).dirty = true) (rest : List Input) :
    constructLoop base cnt start (left + 1) j (s.constructed base cnt start j rest) =
      (s.constructed base cnt start j rest).await
        ((s.constructed base cnt start j rest).writeBackOf j (.select base cnt start j left))
        (resume (.select base cnt start j left)) := by
  rw [constructLoop_succ, mismatched_constructed hj, slot_constructed_self, if_pos hrep, if_pos hd]

theorem writeTxn_constructed (rep : Reply) (j : Nat) (rest : List Input) :
    writeTxn (s.constructed base cnt start j rest) rep j = writeTxn s rep j := by
  simp only [writeTxn, slot_constructed_self]

/-- A pass over a slot whose write-back the device acknowledges (R121). -/
theorem constructLoop_pass_writeBack {left j : Nat} (hj : base ≤ j ∧ j < base + cnt)
    (hrep : repointed s base cnt start j = true) (hd : (s.slot j).dirty = true) (rest : List Input) :
    constructLoop base cnt start (left + 1) j (s.constructed base cnt start j (.device .ok :: rest)) =
      constructLoop base cnt start left (j + 1) (s.constructed base cnt start (j + 1) rest) := by
  rw [constructLoop_await hj hrep hd, await_writeBack_ok j _ _ rfl, writeTxn_constructed, slot_constructed_self,
    constructed_succ_of_dirty hrep hd]
  rfl

theorem oks_succ (m : Nat) (rest : List Input) : oks (m + 1) rest = oks m (.device .ok :: rest) := by
  rw [oks, oks, List.replicate_succ', List.append_assoc]
  rfl

/-- A construct passes the first `m` slots of its window with an acknowledgement for each victim among them (R121). -/
theorem constructLoop_passes {m : Nat} (hm : m ≤ cnt) (left : Nat) (rest : List Input) :
    constructLoop base cnt start (m + left) base
        (s.constructed base cnt start base (oks (victimsBefore s base cnt start (base + m)).length rest)) =
      constructLoop base cnt start left (base + m) (s.constructed base cnt start (base + m) rest) := by
  induction m generalizing left rest with
  | zero =>
    rw [Nat.add_zero, victimsBefore_base, Nat.zero_add]
    rfl
  | succ m ih =>
    have hj : base ≤ base + m ∧ base + m < base + cnt := by omega
    rw [show m + 1 + left = m + (left + 1) by omega, ← Nat.add_assoc base, victimsBefore_succ, List.length_append]
    cases hv : repointed s base cnt start (base + m) && (s.slot (base + m)).dirty with
    | false =>
      rw [if_neg Bool.false_ne_true]
      exact (ih (by omega) _ _).trans (constructLoop_pass hj hv rest)
    | true =>
      obtain ⟨hrep, hd⟩ := (Bool.and_eq_true _ _).mp hv
      rw [if_pos rfl, List.length_singleton, oks_succ]
      exact (ih (by omega) _ _).trans (constructLoop_pass_writeBack hj hrep hd rest)

/-- A selection whose write-backs the device acknowledges (R120, R121). -/
theorem constructLoop_eq_selected {rest : List Input} (hin : s.inputs = oks (victims s base cnt start).length rest) :
    constructLoop base cnt start cnt base s.dropView = selected s base cnt start rest := by
  rw [← constructed_base hin, victims_eq_victimsBefore]
  refine (constructLoop_passes (le_refl cnt) 0 rest).trans ?_
  rw [constructLoop_zero, State.constructed, ← victims_eq_victimsBefore, emptied_window_end]
  rfl

/-- A selection whose write-back number `k`, that of slot `j`, fails or is cancelled (R121, R286, R297). -/
theorem constructLoop_eq_endedBy {k j : Nat} {x : Input} {rep : Reply} {rest : List Input}
    (hj : (victims s base cnt start)[k]? = some j) (hin : s.inputs = oks k (x :: rest)) (hx : failsWith x rep) :
    constructLoop base cnt start cnt base s.dropView = endedBy
      { s with
        slots := emptied s base cnt start j
        view := { s.view with valid := false }
        medium := Memory.writeBlock (writtenBack s.medium s ((victims s base cnt start).take k)) (s.slot j).tag.toNat
          (freeBlock s.draws)
        draws := s.draws + 1
        devLog := s.devLog ++ ((victims s base cnt start).take k).map (writeTxn s .ok) ++ [writeTxn s rep j]
        inputs := rest } rep := by
  obtain ⟨hrep, hd⟩ := mem_victims (List.mem_of_getElem? hj)
  obtain ⟨hwin, -⟩ := (repointed_iff s base cnt start j).mp hrep
  obtain ⟨m, rfl⟩ := Nat.exists_eq_add_of_le hwin.1
  obtain ⟨left, hleft⟩ := Nat.exists_eq_add_of_lt (show m < cnt by omega)
  have htake := victimsBefore_eq_take hj
  have hk : (victimsBefore s base cnt start (base + m)).length = k := by
    rw [htake, List.length_take, min_eq_left (List.getElem?_eq_some_iff.mp hj).1.le]
  have hpasses := constructLoop_passes (s := s) (base := base) (start := start) (show m ≤ cnt by omega) (left + 1) (x :: rest)
  rw [hk, constructed_base hin, show m + (left + 1) = cnt by omega, constructLoop_await hwin hrep hd,
    await_writeBack_failsWith (base + m) _ _ rfl hx, writeTxn_constructed, slot_constructed_self] at hpasses
  rw [hpasses, ← htake]
  rfl

end

/-! ### The obligations -/

/-- Settles O21: the window is the one of `selPlan_eq_iff`, and the command constructs it. -/
theorem selSelectsWindow : Obligations.SelSelectsWindow := by
  intro s start
  refine ⟨⟨_, _, (selPlan_eq_iff s start _ _).mp rfl⟩, fun base cnt rest hplan hin => ?_⟩
  rw [exec_sel hplan, constructLoop_eq_selected hin]

/-- Settles O22: the first slot is the one of `selxBase_eq_iff`, and the command constructs its window. -/
theorem selxSelectsWindow : Obligations.SelxSelectsWindow := by
  intro s len start hpos hlen hend
  refine ⟨⟨_, (selxBase_eq_iff start _ hlen).mp rfl⟩, fun base rest hbase hin => ?_⟩
  rw [exec_selx hpos hlen hend hbase, constructLoop_eq_selected hin]

/-- Settles O23: either command is the construct of its window, which stops at slot `j`. -/
theorem selectionWriteBackFails : Obligations.SelectionWriteBackFails := by
  intro s i start base cnt k j x rep rest hi hj hin hx
  have hexec : exec i s = .next (constructLoop base cnt start cnt base s.dropView) := by
    rcases hi with ⟨rfl, hplan⟩ | ⟨len, rfl, rfl, hpos, hlen, hend, hbase⟩
    · exact exec_sel hplan
    · exact exec_selx hpos hlen hend hbase
  rw [hexec, constructLoop_eq_endedBy hj hin hx]

end Sys2Proof.Machine

/-! # View commands (R140 to R146)

The commands that check a view and then an operand do so alike (`withView_checked`), and what each does after its checks is one
update of the slots. The state of `VRD` on its way to a slot is one update of the state it began with (`State.refilling`); a
pass moves it to the next slot, so the end of the command and a failure at any read both read off it. -/

namespace Sys2Proof.Machine

open Sys2Proof Sys2Proof.Claims

/-! ### The checks (R146, R292) -/

theorem withView_of_noView {s : State} (hview : s.view.valid = false) (k : State → State) :
    s.withView k = ended s .noView 0 0 :=
  if_neg (Bool.eq_false_iff.mp hview)

/-- A view command with an operand check: no view, else an operand out of range, else its effect. -/
theorem withView_checked {s : State} {bad : Prop} [Decidable bad] (check : State → Bool) (hcheck : check s = true ↔ ¬ bad)
    (effect : State → State) :
    (s.withView fun s => if check s then effect s else s.raise .badOperand) =
      if s.view.valid = false then ended s .noView 0 0 else if bad then ended s .badOperand 0 0 else effect s := by
  cases hview : s.view.valid with
  | false => exact withView_of_noView hview _
  | true =>
    simp only [State.withView, hview, if_true, Bool.true_eq_false, if_false]
    by_cases hbad : bad
    · rw [if_neg (mt hcheck.mp (not_not_intro hbad)), if_pos hbad]
      rfl
    · rw [if_pos (hcheck.mpr hbad), if_neg hbad]

theorem byteInView_iff (s : State) (off : Word) : byteInView s off = true ↔ ¬ 512 * s.view.cnt ≤ off.toNat :=
  decide_eq_true_iff.trans not_le.symm

theorem rangeInView_iff (s : State) (off len : Word) :
    rangeInView s off len = true ↔ ¬ 512 * s.view.cnt < off.toNat + len.toNat :=
  decide_eq_true_iff.trans not_lt.symm

theorem wordInView_iff_not (s : State) (off : Word) :
    wordInView s off = true ↔ ¬ (off.toNat % 4 ≠ 0 ∨ 512 * s.view.cnt < off.toNat + 4) := by
  rw [wordInView_iff, not_or, not_not, not_lt]

/-! ### Stores into a block (R143, R145) -/

theorem blockSetByte_eq_gen (b : Block) {j : Nat} (v : Byte) (hj : j < 512) :
    blockSetByte b j v = Block.gen fun p => if p = j then v else blockByte b p :=
  block_ext fun p hp => by rw [blockByte_setByte b v p hj, blockByte_gen _ hp]

theorem le32Byte_eq_setWidth (v : Word) (i : Nat) : le32Byte v i = (v >>> (8 * i)).setWidth 8 := rfl

theorem blockSetWord_eq_putWord (b : Block) {o : Nat} (v : Word) (ho : o + 4 ≤ 512) : blockSetWord b o v = putWord b o v :=
  block_ext fun p hp => by rw [blockByte_setWord b v p ho, putWord, blockByte_gen _ hp, le32Byte_eq_setWidth]

/-! ### Marked slots (R141) -/

/-- A slot list is known slot by slot. -/
theorem slots_eq_slotMap {s t : State} {f : Nat → Slot} (hcount : t.slots.length = s.slots.length)
    (h : ∀ i < s.slots.length, t.slot i = f i) : t.slots = slotMap s f := by
  refine List.ext_getElem (by simpa [slotMap] using hcount) fun i ht _ => ?_
  have hi := h i (hcount ▸ ht)
  rw [State.slot, List.getElem?_eq_getElem ht, Option.getD_some] at hi
  simpa [slotMap] using hi

theorem length_markSlots (s : State) (qs : List Nat) : (s.markSlots qs).slots.length = s.slots.length := by
  induction qs generalizing s with
  | nil => rfl
  | cons q qs ih => exact (ih _).trans (setSlot_length _ _ _)

/-- Marking tags the listed slots of the view to their blocks and makes them dirty, whatever the order. -/
theorem slot_markSlots {s : State} {i : Nat} (hi : i < s.slots.length) (qs : List Nat) :
    (s.markSlots qs).slot i =
      if s.view.base ≤ i ∧ i - s.view.base ∈ qs then { s.slot i with tag := needed s i, valid := true, dirty := true }
      else s.slot i := by
  induction qs generalizing s with
  | nil => simp [State.markSlots]
  | cons q qs ih =>
    have hmarked : (s.markSlot q).slot i =
        if i = s.view.base + q then { s.slot i with tag := needed s i, valid := true, dirty := true } else s.slot i := by
      rw [State.markSlot, State.tagSlot, slot_setSlot]
      by_cases hq : i = s.view.base + q
      · subst hq
        rw [if_pos ⟨rfl, hi⟩, if_pos rfl, needed, Nat.add_sub_cancel_left]
        rfl
      · rw [if_neg (hq ·.1), if_neg hq]
    have hrest : ((s.markSlot q).markSlots qs).slot i =
        if s.view.base ≤ i ∧ i - s.view.base ∈ qs then
          { (s.markSlot q).slot i with tag := needed s i, valid := true, dirty := true }
        else (s.markSlot q).slot i := ih (hi.trans_eq (setSlot_length _ _ _).symm)
    rw [State.markSlots, hrest, hmarked]
    by_cases hq : i = s.view.base + q
    · simp [hq]
    · have hmem : s.view.base ≤ i ∧ i - s.view.base ∈ q :: qs ↔ s.view.base ≤ i ∧ i - s.view.base ∈ qs :=
        and_congr_right fun hle => by rw [List.mem_cons, or_iff_right (by omega)]
      rw [if_neg hq]
      exact if_congr hmem.symm rfl rfl

theorem slots_markSlots (s : State) (off len : Word) :
    (s.markSlots (markedSlots off len s.view.cnt)).slots = slotMap s fun j =>
      if s.view.base ≤ j ∧ j < s.view.base + s.view.cnt ∧ touches off len (j - s.view.base) = true then
        { s.slot j with tag := needed s j, valid := true, dirty := true }
      else s.slot j :=
  slots_eq_slotMap (length_markSlots s _) fun i hi => by
    have hmem : s.view.base ≤ i ∧ i - s.view.base ∈ markedSlots off len s.view.cnt ↔
        s.view.base ≤ i ∧ i < s.view.base + s.view.cnt ∧ touches off len (i - s.view.base) = true := by
      rw [markedSlots, List.mem_filter, List.mem_range]
      exact and_congr_right fun hle => and_congr (by omega) Iff.rfl
    rw [slot_markSlots hi]
    exact if_congr hmem rfl rfl

/-! ### The reads of `VRD` (R140, R206) -/

/-- What a fill leaves in slot `j`: its block of the medium, clean (R140). -/
def filledSlot (s : State) (j : Nat) : Slot :=
  { valid := true, tag := needed s j, dirty := false, data := Memory.readBlock s.medium (needed s j).toNat }

theorem setSlot_setSlot (s : State) (i : Nat) (a b : Slot) : (s.setSlot i a).setSlot i b = s.setSlot i b := by
  simp only [State.setSlot, List.set_set]

/-- Data put into a slot that has been emptied. -/
theorem setSlotData_invalidateSlot (s : State) (j : Nat) (b : Block) :
    (s.invalidateSlot j).setSlotData j b = s.setSlot j { s.slot j with valid := false, data := b } := by
  rw [State.setSlotData, slot_invalidateSlot, if_pos rfl, State.invalidateSlot, setSlot_setSlot]

/-- A slot that has been emptied and read into, once it is tagged. -/
theorem filled_setSlotData_invalidateSlot {s : State} {j : Nat} (hj : j < s.slots.length) (b : Block) :
    ((s.invalidateSlot j).setSlotData j b).filled j =
      s.setSlot j { valid := true, tag := needed s j, dirty := false, data := b } := by
  rw [setSlotData_invalidateSlot, State.filled, State.tagSlot, slot_setSlot, if_pos ⟨rfl, hj⟩, setSlot_setSlot]
  rfl

/-- A read the device acknowledges: its block is in the slot, and the command goes on (R140, R206). -/
theorem await_fill_ok {s : State} {rest : List Input} (j : Nat) (c : Cont) (k : State → State)
    (hin : s.inputs = .device .ok :: rest) :
    s.await (s.fillOf j c) k = k
      { s.setSlotData j (Memory.readBlock s.medium (needed s j).toNat) with
        devLog := s.devLog ++ [readTxn s .ok j]
        inputs := rest } :=
  await_ok k hin

/-- A read that fails or is cancelled: its slot's bytes are free, and the command ends (R206; log entries 2 and 1). -/
theorem await_fill_failsWith {s : State} {x : Input} {rep : Reply} {rest : List Input} (j : Nat) (c : Cont)
    (k : State → State) (hin : s.inputs = x :: rest) (hx : failsWith x rep) :
    s.await (s.fillOf j c) k = endedBy
      { s.setSlotData j (freeBlock s.draws) with
        draws := s.draws + 1
        devLog := s.devLog ++ [readTxn s rep j]
        inputs := rest } rep := by
  rw [State.await, reply_failsWith hin hx]
  exact settle_eq_endedBy hx _ k

theorem refillFrom_ok {s : State} {left j : Nat} {rest : List Input} (hj : j < s.slots.length)
    (hin : s.inputs = .device .ok :: rest) :
    refillFrom left j s = fillLoop left (j + 1)
      { s.setSlot j (filledSlot s j) with devLog := s.devLog ++ [readTxn s .ok j], inputs := rest } := by
  have hfilled := filled_setSlotData_invalidateSlot hj (Memory.readBlock s.medium (needed s j).toNat)
  exact (await_fill_ok (s := s.invalidateSlot j) j _ _ hin).trans (congrArg
    (fun t : State => fillLoop left (j + 1) { t with devLog := s.devLog ++ [readTxn s .ok j], inputs := rest }) hfilled)

theorem refillFrom_failsWith {s : State} {left j : Nat} {x : Input} {rep : Reply} {rest : List Input}
    (hin : s.inputs = x :: rest) (hx : failsWith x rep) :
    refillFrom left j s = endedBy
      { s.setSlot j { s.slot j with valid := false, data := freeBlock s.draws } with
        draws := s.draws + 1
        devLog := s.devLog ++ [readTxn s rep j]
        inputs := rest } rep := by
  rw [← setSlotData_invalidateSlot]
  exact await_fill_failsWith (s := s.invalidateSlot j) j _ _ hin hx

/-! ### The slots `VRD` has passed (R140) -/

/-- Before the entry number `k` of a filtered range, its first `k` entries. -/
theorem filter_range_eq_take {p : Nat → Bool} {n k j : Nat} (h : ((List.range n).filter p)[k]? = some j) :
    (List.range j).filter p = ((List.range n).filter p).take k := by
  induction n with
  | zero => simp at h
  | succ n ih =>
    rw [List.range_succ, List.filter_append] at h ⊢
    by_cases hk : k < ((List.range n).filter p).length
    · rw [List.getElem?_append_left hk] at h
      rw [List.take_append_of_le_length hk.le, ih h]
    · rw [List.getElem?_append_right (not_lt.mp hk)] at h
      have hlast := List.mem_of_getElem? h
      obtain rfl : j = n := List.mem_singleton.mp (List.mem_filter.mp hlast).1
      have hlen : k - ((List.range j).filter p).length < 1 :=
        (List.getElem?_eq_some_iff.mp h).1.trans_le (List.length_filter_le p [j])
      rw [show k = ((List.range j).filter p).length by omega, List.take_left]

section
variable (s : State)

/-- Slot `j` belongs to the view and does not cache its block (R140). -/
def missingAt (j : Nat) : Bool := s.view.base ≤ j && j < s.view.base + s.view.cnt && !s.caches j (s.need j)

/-- The slots before `stop` that `VRD` fills, in order (R140). -/
def missingBefore (stop : Nat) : List Nat := (List.range stop).filter (missingAt s)

/-- The state of `VRD` when it comes to slot `stop`, every read so far acknowledged (R140). -/
def State.refilling (stop : Nat) (rest : List Input) : State :=
  { s with
    slots := refilled s stop
    devLog := s.devLog ++ (missingBefore s stop).map (readTxn s .ok)
    inputs := rest }

theorem missingAt_iff (j : Nat) :
    missingAt s j = true ↔ (s.view.base ≤ j ∧ j < s.view.base + s.view.cnt) ∧ ¬ s.caches j (s.need j) = true := by
  simp only [missingAt, Bool.and_eq_true, decide_eq_true_iff, Bool.not_eq_true', Bool.not_eq_true]

theorem missing_eq_missingBefore : missing s = missingBefore s s.slots.length := rfl

theorem missingBefore_succ (j : Nat) :
    missingBefore s (j + 1) = missingBefore s j ++ if missingAt s j then [j] else [] := by
  rw [missingBefore, List.range_succ, List.filter_append, List.filter_singleton, Bool.cond_eq_ite]
  rfl

theorem length_refilled (stop : Nat) : (refilled s stop).length = s.slots.length := by
  simp [refilled, slotMap]

theorem refilled_eq (stop : Nat) :
    refilled s stop = slotMap s fun j => if missingAt s j && j < stop then filledSlot s j else s.slot j :=
  List.map_congr_left fun j hj => by
    have hmem : (missing s).contains j = missingAt s j := by
      rw [Bool.eq_iff_iff, List.contains_iff_mem, missing, List.mem_filter, and_iff_right hj]
      rfl
    rw [hmem]
    rfl

/-- `VRD` has not touched the slot it comes to. -/
theorem slot_refilling_self (stop : Nat) (rest : List Input) : (s.refilling stop rest).slot stop = s.slot stop := by
  by_cases hstop : stop < s.slots.length
  · simp [State.slot, State.refilling, refilled_eq, slotMap, hstop]
  · have hout := not_lt.mp hstop
    rw [slot_out s hout, slot_out _ (by rwa [State.refilling, length_refilled])]

variable {s}

theorem refilled_succ_of_cached {j : Nat} (h : missingAt s j = false) : refilled s (j + 1) = refilled s j := by
  rw [refilled_eq, refilled_eq]
  refine List.map_congr_left fun i _ => ?_
  by_cases hij : i = j
  · simp [hij, h]
  · simp only [Nat.lt_succ_iff_lt_or_eq, hij, or_false]

theorem refilled_succ_of_missing {j : Nat} (h : missingAt s j = true) :
    refilled s (j + 1) = (refilled s j).set j (filledSlot s j) := by
  refine List.ext_getElem (by simp [length_refilled]) fun i _ _ => ?_
  simp only [refilled_eq, slotMap, List.getElem_map, List.getElem_range, List.getElem_set]
  by_cases hij : j = i
  · subst hij
    simp [h]
  · simp only [Nat.lt_succ_iff_lt_or_eq, Ne.symm hij, or_false, hij, if_false]

theorem missingAt_eq_false_of_lt_base {i : Nat} (hi : i < s.view.base) : missingAt s i = false :=
  Bool.eq_false_iff.mpr fun hmiss => by
    obtain ⟨⟨hlow, -⟩, -⟩ := (missingAt_iff s i).mp hmiss
    omega

theorem missingBefore_base : missingBefore s s.view.base = [] :=
  List.filter_eq_nil_iff.mpr fun _ hi =>
    Bool.eq_false_iff.mp (missingAt_eq_false_of_lt_base (List.mem_range.mp hi))

/-- `VRD` begins at the first slot of the view. -/
theorem refilling_base {rest : List Input} (hin : s.inputs = rest) : s.refilling s.view.base rest = s := by
  have hslots : refilled s s.view.base = s.slots := by
    rw [refilled_eq]
    refine (slots_eq_slotMap rfl fun i _ => (if_neg ?_).symm).symm
    rw [Bool.and_eq_true, decide_eq_true_iff]
    rintro ⟨hmiss, hlt⟩
    exact Bool.eq_false_iff.mp (missingAt_eq_false_of_lt_base hlt) hmiss
  rw [State.refilling, hslots, missingBefore_base, List.map_nil, List.append_nil, ← hin]

/-- `VRD` fills no slot past its view. -/
theorem refilled_of_viewEnd_le {stop : Nat} (h : s.view.base + s.view.cnt ≤ stop) :
    missingBefore s stop = missingBefore s (s.view.base + s.view.cnt) ∧
      refilled s stop = refilled s (s.view.base + s.view.cnt) := by
  induction stop, h using Nat.le_induction with
  | base => exact ⟨rfl, rfl⟩
  | succ j hj ih =>
    have hcached : missingAt s j = false := Bool.eq_false_iff.mpr fun hmiss => by
      obtain ⟨⟨-, hend⟩, -⟩ := (missingAt_iff s j).mp hmiss
      omega
    rw [missingBefore_succ, refilled_succ_of_cached hcached, hcached, if_neg Bool.false_ne_true, List.append_nil]
    exact ih

/-! ### Passing one slot -/

theorem caches_refilling (j : Nat) (rest : List Input) :
    (s.refilling j rest).caches j ((s.refilling j rest).need j) = s.caches j (s.need j) := by
  rw [State.caches, slot_refilling_self]
  rfl

theorem refilling_succ_of_cached {j : Nat} (hmiss : missingAt s j = false) (rest : List Input) :
    s.refilling (j + 1) rest = s.refilling j rest := by
  rw [State.refilling, refilled_succ_of_cached hmiss, missingBefore_succ, hmiss, if_neg Bool.false_ne_true, List.append_nil]
  rfl

theorem refilling_succ_of_missing {j : Nat} (hmiss : missingAt s j = true) (taken rest : List Input) :
    s.refilling (j + 1) rest =
      { (s.refilling j taken).setSlot j (filledSlot s j) with
        devLog := (s.refilling j taken).devLog ++ [readTxn s .ok j]
        inputs := rest } := by
  rw [State.refilling, refilled_succ_of_missing hmiss, missingBefore_succ, hmiss, if_pos rfl, List.map_append,
    ← List.append_assoc]
  rfl

/-- A pass over a slot that caches its block takes no input (R140). -/
theorem fillLoop_pass_cached {left j : Nat} (hj : s.view.base ≤ j ∧ j < s.view.base + s.view.cnt)
    (hmiss : missingAt s j = false) (rest : List Input) :
    fillLoop (left + 1) j (s.refilling j rest) = fillLoop left (j + 1) (s.refilling (j + 1) rest) := by
  have hcached : s.caches j (s.need j) = true := by
    by_contra hc
    exact Bool.eq_false_iff.mp hmiss ((missingAt_iff s j).mpr ⟨hj, hc⟩)
  rw [fillLoop_succ, caches_refilling, if_pos hcached, refilling_succ_of_cached hmiss]

/-- A slot of a well-formed view that does not cache its block is Empty, so `VRD` writes nothing back (R140, C13). -/
theorem fillLoop_eq_refillFrom {left j : Nat} (hview : s.view.valid = true) (hok : s.ViewOk) (hmiss : missingAt s j = true)
    (rest : List Input) :
    fillLoop (left + 1) j (s.refilling j rest) = refillFrom left j (s.refilling j rest) := by
  obtain ⟨⟨hlow, hend⟩, hc⟩ := (missingAt_iff s j).mp hmiss
  have hempty : ((s.refilling j rest).slot j).valid = false := by
    rw [slot_refilling_self]
    exact Bool.eq_false_iff.mpr fun hvalid => hc (caches_of_viewOk hok hview hlow hend hvalid)
  rw [fillLoop_succ, caches_refilling, if_neg hc, dirtyAt_of_empty hempty, if_neg Bool.false_ne_true]

/-- A slot `VRD` fills is one of the pool (R25). -/
theorem lt_of_missingAt {j : Nat} (hview : s.view.valid = true) (hok : s.ViewOk) (hmiss : missingAt s j = true) :
    j < s.slots.length := by
  obtain ⟨⟨-, hend⟩, -⟩ := (missingAt_iff s j).mp hmiss
  obtain ⟨⟨-, hpool, -⟩, -⟩ := hok hview
  omega

/-- A pass over a slot whose read the device acknowledges (R140). -/
theorem fillLoop_pass_read {left j : Nat} (hview : s.view.valid = true) (hok : s.ViewOk) (hmiss : missingAt s j = true)
    (rest : List Input) :
    fillLoop (left + 1) j (s.refilling j (.device .ok :: rest)) = fillLoop left (j + 1) (s.refilling (j + 1) rest) := by
  have hj : j < (s.refilling j (.device .ok :: rest)).slots.length := by
    rw [State.refilling, length_refilled]
    exact lt_of_missingAt hview hok hmiss
  rw [fillLoop_eq_refillFrom hview hok hmiss, refillFrom_ok hj rfl, refilling_succ_of_missing hmiss (.device .ok :: rest)]
  rfl

/-- `VRD` passes the first `m` slots of its view with an acknowledgement for each slot among them it fills (R140). -/
theorem fillLoop_passes (hview : s.view.valid = true) (hok : s.ViewOk) {m : Nat} (hm : m ≤ s.view.cnt) (left : Nat)
    (rest : List Input) :
    fillLoop (m + left) s.view.base (s.refilling s.view.base (oks (missingBefore s (s.view.base + m)).length rest)) =
      fillLoop left (s.view.base + m) (s.refilling (s.view.base + m) rest) := by
  induction m generalizing left rest with
  | zero =>
    rw [Nat.add_zero, missingBefore_base, Nat.zero_add]
    rfl
  | succ m ih =>
    have hj : s.view.base ≤ s.view.base + m ∧ s.view.base + m < s.view.base + s.view.cnt := by omega
    rw [show m + 1 + left = m + (left + 1) by omega, ← Nat.add_assoc s.view.base, missingBefore_succ, List.length_append]
    cases hmiss : missingAt s (s.view.base + m) with
    | false =>
      rw [if_neg Bool.false_ne_true]
      exact (ih (by omega) _ _).trans (fillLoop_pass_cached hj hmiss rest)
    | true =>
      rw [if_pos rfl, List.length_singleton, oks_succ]
      exact (ih (by omega) _ _).trans (fillLoop_pass_read hview hok hmiss rest)

end

/-! ### The obligations -/

theorem exec_vrd {s : State} (hview : s.view.valid = true) : exec .vrd s = .next (fillLoop s.view.cnt s.view.base s) :=
  congrArg Host.Outcome.next (if_pos hview)

/-- Settles O26: `VRD` passes its whole view. -/
theorem vrdFillsMissingSlots : Obligations.VrdFillsMissingSlots := by
  intro s rest hview hok hin
  obtain ⟨⟨-, hpool, -⟩, -⟩ := hok hview
  obtain ⟨hmissing, hrefilled⟩ := refilled_of_viewEnd_le hpool
  rw [← missing_eq_missingBefore] at hmissing
  have hpasses := fillLoop_passes hview hok (le_refl s.view.cnt) 0 rest
  rw [← hmissing, refilling_base hin, Nat.add_zero, fillLoop_zero, State.refilling, ← hmissing] at hpasses
  rw [exec_vrd hview, hpasses, hrefilled]
  rfl

/-- Settles O27: `VRD` passes the slots before `j` and stops at its read. -/
theorem vrdReadFails : Obligations.VrdReadFails := by
  intro s k j x rep rest hview hok hj hin hx
  have hmiss : missingAt s j = true := (List.mem_filter.mp (List.mem_of_getElem? hj)).2
  obtain ⟨⟨hlow, hend⟩, -⟩ := (missingAt_iff s j).mp hmiss
  obtain ⟨m, rfl⟩ := Nat.exists_eq_add_of_le hlow
  obtain ⟨left, hleft⟩ := Nat.exists_eq_add_of_lt (show m < s.view.cnt by omega)
  have htake : missingBefore s (s.view.base + m) = (missing s).take k := filter_range_eq_take hj
  have hk : (missingBefore s (s.view.base + m)).length = k := by
    rw [htake, List.length_take, min_eq_left (List.getElem?_eq_some_iff.mp hj).1.le]
  have hpasses := fillLoop_passes hview hok (show m ≤ s.view.cnt by omega) (left + 1) (x :: rest)
  rw [hk, refilling_base hin, show m + (left + 1) = s.view.cnt by omega, fillLoop_eq_refillFrom hview hok hmiss,
    refillFrom_failsWith rfl hx, slot_refilling_self] at hpasses
  rw [exec_vrd hview, hpasses, ← htake]
  rfl

/-- Settles O28: the marked slots are the ones the range touches. -/
theorem vmodMarksOverlappedSlots : Obligations.VmodMarksOverlappedSlots := by
  intro s off len
  have hchecked := withView_checked (rangeInView · off len) (rangeInView_iff s off len) fun s =>
    (s.markSlots (markedSlots off len s.view.cnt)).ret (BitVec.ofNat 32 (markedSlots off len s.view.cnt).length) 0
  refine congrArg Host.Outcome.next (hchecked.trans ?_)
  rw [markSlots_fields, slots_markSlots]
  rfl

/-- Settles O32: a word inside the view lies in one slot (R63). -/
theorem vswStoresWord : Obligations.VswStoresWord := by
  intro s off val
  have hchecked := withView_checked (wordInView · off) (wordInView_iff_not s off) fun s =>
    (s.setViewWord off.toNat val).ret 0 0
  refine congrArg Host.Outcome.next (hchecked.trans ?_)
  split
  · rfl
  split
  · rfl
  · have hfits : off.toNat % 512 + 4 ≤ 512 := by omega
    rw [← blockSetWord_eq_putWord _ val hfits]
    rfl

/-- Settles O24: the six commands begin with the same check. -/
theorem viewCommandsNeedAView : Obligations.ViewCommandsNeedAView := by
  intro s a b hview
  have hnone (k : State → State) : (.next (s.withView k) : Host.Outcome State Fault Refusal) = .next (ended s .noView 0 0) :=
    congrArg _ (withView_of_noView hview k)
  simp only [List.forall_mem_cons]
  exact ⟨hnone _, hnone _, hnone _, hnone _, hnone _, hnone _, nofun⟩

/-- Settles O29: after the checks the model's load is the claim's byte. -/
theorem vlbLoadsByte : Obligations.VlbLoadsByte := fun s off =>
  congrArg Host.Outcome.next (withView_checked (byteInView · off) (byteInView_iff s off) fun s =>
    s.ret ((s.viewByte off.toNat).setWidth 32) 0)

/-- Settles O30: the store sets one byte of one slot's block. -/
theorem vsbStoresByte : Obligations.VsbStoresByte := by
  intro s off val
  have hchecked := withView_checked (byteInView · off) (byteInView_iff s off) fun s =>
    (s.setViewByte off.toNat (val.extractLsb' 0 8)).ret 0 0
  refine congrArg Host.Outcome.next (hchecked.trans ?_)
  rw [State.setViewByte, blockSetByte_eq_gen _ _ (Nat.mod_lt _ (by decide))]
  rfl

/-- Settles O31: after the checks the model's load is the claim's word. -/
theorem vlwLoadsWord : Obligations.VlwLoadsWord := fun s off =>
  congrArg Host.Outcome.next (withView_checked (wordInView · off) (wordInView_iff_not s off) fun s =>
    s.ret (s.viewLoad off.toNat) 0)

end Sys2Proof.Machine

/-! # `FLUSH` and `NOP` (R160 to R163)

The run the model counts out is the claims' maximal run (`runLength_eq_runLen`). `FLUSH` comes to the slots that begin a run or
are not dirty (`State.FlushVisits`), and its state at such a slot is one update of the state it began with (`State.flushedTo`);
the end of the command and a failure at any run both read off it. -/

namespace Sys2Proof.Machine

open Sys2Proof Sys2Proof.Claims

/-! ### Maximal runs (R161) -/

/-- A run of dirty slots that the slot after it does not continue (R161). -/
def State.IsMaximalRun (s : State) (i r : Nat) : Prop :=
  s.IsRun i r ∧ (s.dirtyAt (i + r) = true → (s.slot (i + r)).tag.toNat ≠ (s.slot i).tag.toNat + r)

/-- The test by which the model counts out a run: slot `i + r` continues the run that begins at slot `i` (R161). -/
def State.continuesRun (s : State) (i r : Nat) : Bool :=
  i + r < s.slots.length && (s.slot i).tag.toNat + r ≤ maxBlock && s.dirtyAt (i + r)
    && (s.slot (i + r)).tag.toNat = (s.slot i).tag.toNat + r

theorem runLength_eq_countUp (s : State) (i : Nat) :
    s.runLength i = countUp (s.continuesRun i) s.slots.length 1 := rfl

/-- A tag is at most the last block, so the bound of R161 never ends a run that the tags continue. -/
theorem continuesRun_of_tag {s : State} {i r : Nat} (hd : s.dirtyAt (i + r) = true)
    (ht : (s.slot (i + r)).tag.toNat = (s.slot i).tag.toNat + r) : s.continuesRun i r = true := by
  have hblock : (s.slot i).tag.toNat + r ≤ maxBlock := ht ▸ Nat.le_of_lt_succ (s.slot (i + r)).tag.isLt
  rw [State.continuesRun, hd, decide_eq_true (lt_of_dirtyAt hd), decide_eq_true hblock, decide_eq_true ht]
  rfl

theorem runLength_isMaximalRun {s : State} {i : Nat} (hi : s.dirtyAt i = true) : s.IsMaximalRun i (s.runLength i) := by
  have hrun := runLength_isRun hi
  obtain ⟨-, -, -, hstop⟩ := countUp_spec (s.continuesRun i) s.slots.length 1
  rw [← runLength_eq_countUp] at hstop
  have ⟨_, hpool, _⟩ := hrun
  exact ⟨hrun, fun hd ht => Bool.eq_false_iff.mp (hstop (by omega)) (continuesRun_of_tag hd ht)⟩

theorem runLen_eq_of_isMaximalRun {s : State} {i r : Nat} (h : s.IsMaximalRun i r) : runLen s i = r := by
  obtain ⟨⟨-, hpool, hrun⟩, hstop⟩ := h
  obtain ⟨m, hm⟩ := Nat.exists_eq_add_of_le (show r ≤ s.slots.length - i by omega)
  have hinside : ∀ q ∈ List.range r,
      (s.dirtyAt (i + q) && decide ((s.slot (i + q)).tag.toNat = (s.slot i).tag.toNat + q)) = true := fun q hq => by
    obtain ⟨hd, ht⟩ := hrun q (List.mem_range.mp hq)
    rw [hd, decide_eq_true ht, Bool.true_and]
  have hoff : ¬ (s.dirtyAt (i + r) && decide ((s.slot (i + r)).tag.toNat = (s.slot i).tag.toNat + r)) = true := by
    rw [Bool.and_eq_true, decide_eq_true_iff]
    exact fun ⟨hd, ht⟩ => hstop hd ht
  rw [runLen, hm, List.range_add, List.takeWhile_append_of_pos hinside]
  cases m with
  | zero => simp
  | succ m => simp [List.range_succ_eq_map, hoff]

/-- The run `FLUSH` writes is the claims' run (R161). -/
theorem runLength_eq_runLen {s : State} {i : Nat} (hi : s.dirtyAt i = true) : s.runLength i = runLen s i :=
  (runLen_eq_of_isMaximalRun (runLength_isMaximalRun hi)).symm

theorem runLen_isMaximalRun {s : State} {i : Nat} (hi : s.dirtyAt i = true) : s.IsMaximalRun i (runLen s i) :=
  runLength_eq_runLen hi ▸ runLength_isMaximalRun hi

theorem beginsRun_iff (s : State) (i : Nat) :
    beginsRun s i = true ↔ s.dirtyAt i = true ∧
      ¬ (1 ≤ i ∧ s.dirtyAt (i - 1) = true ∧ (s.slot i).tag.toNat = (s.slot (i - 1)).tag.toNat + 1) := by
  simp only [beginsRun, Bool.and_eq_true, Bool.not_eq_true', ← Bool.not_eq_true, decide_eq_true_iff, and_assoc]

theorem dirtyAt_of_beginsRun {s : State} {i : Nat} (h : beginsRun s i = true) : s.dirtyAt i = true :=
  ((beginsRun_iff s i).mp h).1

/-- Inside a run no other run begins. -/
theorem beginsRun_eq_false_of_inside {s : State} {i r q : Nat} (hrun : s.IsRun i r) (hq : 1 ≤ q) (hqr : q < r) :
    beginsRun s (i + q) = false := by
  obtain ⟨-, -, hall⟩ := hrun
  obtain ⟨-, ht⟩ := hall q hqr
  obtain ⟨hd', ht'⟩ := hall (q - 1) (by omega)
  refine Bool.eq_false_iff.mpr fun hb => ((beginsRun_iff s _).mp hb).2 ?_
  rw [Nat.add_sub_assoc hq]
  exact ⟨by omega, hd', by omega⟩

/-! ### The slots `FLUSH` comes to (R160) -/

/-- `FLUSH` comes to slot `i` between two passes (tied to its loop by `flushLoop_visits`). -/
inductive State.FlushVisits (s : State) : Nat → Prop where
  | first : s.FlushVisits 0
  | afterClean {i : Nat} : s.FlushVisits i → i < s.slots.length → s.dirtyAt i = false → s.FlushVisits (i + 1)
  | afterRun {i : Nat} : s.FlushVisits i → s.dirtyAt i = true → s.FlushVisits (i + runLen s i)

/-- A dirty slot `FLUSH` comes to begins a maximal run. -/
theorem State.FlushVisits.beginsRun {s : State} {i : Nat} (h : s.FlushVisits i) (hi : s.dirtyAt i = true) :
    beginsRun s i = true := by
  refine (beginsRun_iff s i).mpr ⟨hi, ?_⟩
  cases h with
  | first => exact fun ⟨hpos, _⟩ => absurd hpos (by decide)
  | afterClean _ _ hclean => exact fun ⟨_, hd, _⟩ => Bool.eq_false_iff.mp hclean hd
  | @afterRun j _ hj =>
    obtain ⟨⟨hpos, -, hall⟩, hstop⟩ := runLen_isMaximalRun hj
    obtain ⟨-, hlast⟩ := hall (runLen s j - 1) (by omega)
    rintro ⟨-, -, ht⟩
    rw [Nat.add_sub_assoc hpos] at ht
    exact hstop hi (by omega)

/-- Slot `j` is one `FLUSH` comes to or lies inside a run it writes. -/
def State.FlushCovers (s : State) (j : Nat) : Prop :=
  s.FlushVisits j ∨ ∃ i, s.FlushVisits i ∧ s.dirtyAt i = true ∧ i < j ∧ j < i + runLen s i

/-- The slot after one of a run is inside the run or the one `FLUSH` comes to next. -/
theorem State.FlushVisits.covers_succ {s : State} {i j : Nat} (hi : s.FlushVisits i) (hd : s.dirtyAt i = true) (hij : i ≤ j)
    (hji : j < i + runLen s i) : s.FlushCovers (j + 1) := by
  by_cases hend : i + runLen s i = j + 1
  · exact .inl (hend ▸ hi.afterRun hd)
  · exact .inr ⟨i, hi, hd, by omega, by omega⟩

theorem flushCovers_of_le (s : State) {j : Nat} (hj : j ≤ s.slots.length) : s.FlushCovers j := by
  induction j with
  | zero => exact .inl .first
  | succ j ih =>
    rcases ih (by omega) with hvisit | ⟨i, hi, hd, hij, hji⟩
    · cases hd : s.dirtyAt j with
      | false => exact .inl (hvisit.afterClean (by omega) hd)
      | true =>
        obtain ⟨⟨hpos, -⟩, -⟩ := runLen_isMaximalRun hd
        exact hvisit.covers_succ hd (le_refl j) (by omega)
    · exact hi.covers_succ hd hij.le hji

/-- `FLUSH` comes to the end of the slots. -/
theorem visits_end (s : State) : s.FlushVisits s.slots.length := by
  refine (flushCovers_of_le s (le_refl _)).resolve_right ?_
  rintro ⟨i, -, hd, -, hinside⟩
  obtain ⟨⟨-, hpool, -⟩, -⟩ := runLen_isMaximalRun hd
  omega

/-- `FLUSH` comes to the first slot of every maximal run. -/
theorem visits_of_beginsRun {s : State} {j : Nat} (hj : beginsRun s j = true) : s.FlushVisits j := by
  refine (flushCovers_of_le s (lt_of_dirtyAt (dirtyAt_of_beginsRun hj)).le).resolve_right ?_
  rintro ⟨i, -, hd, hij, hinside⟩
  obtain ⟨hrun, -⟩ := runLen_isMaximalRun hd
  have hfalse := beginsRun_eq_false_of_inside hrun (q := j - i) (by omega) (by omega)
  rw [Nat.add_sub_cancel' hij.le, hj] at hfalse
  exact Bool.noConfusion hfalse

section
variable (s : State)

/-! ### The runs and dirty slots passed (R160) -/

/-- The first slots of the maximal runs that begin before `stop`, in order. -/
def runsBefore (stop : Nat) : List Nat := (List.range stop).filter (beginsRun s)

/-- The dirty slots before `stop`, in order. -/
def dirtyBefore (stop : Nat) : List Nat := (List.range stop).filter s.dirtyAt

/-- The slots of the maximal run that begins at slot `i`. -/
def runSlots (i : Nat) : List Nat := (List.range (runLen s i)).map (i + ·)

variable {s}

theorem passed_succ_of_clean {i : Nat} (hi : s.dirtyAt i = false) :
    runsBefore s (i + 1) = runsBefore s i ∧ dirtyBefore s (i + 1) = dirtyBefore s i := by
  have hbegins : beginsRun s i = false := by rw [beginsRun, hi, Bool.false_and]
  simp [runsBefore, dirtyBefore, List.range_succ, hi, hbegins]

/-- Of the slots of a run the first begins it, and all are dirty. -/
theorem passed_run {i : Nat} (hi : beginsRun s i = true) :
    runsBefore s (i + runLen s i) = runsBefore s i ++ [i] ∧
      dirtyBefore s (i + runLen s i) = dirtyBefore s i ++ runSlots s i := by
  obtain ⟨hrun, -⟩ := runLen_isMaximalRun (dirtyAt_of_beginsRun hi)
  have ⟨hpos, _, hall⟩ := hrun
  have hdirty : (runSlots s i).filter s.dirtyAt = runSlots s i := by
    refine List.filter_eq_self.mpr (List.forall_mem_map.mpr fun q hq => ?_)
    exact (hall q (List.mem_range.mp hq)).1
  have hbegins : (runSlots s i).filter (beginsRun s) = [i] := by
    obtain ⟨r, hr⟩ := Nat.exists_eq_add_of_le' hpos
    have hrest : ((List.range r).map (i + Nat.succ ·)).filter (beginsRun s) = [] := by
      refine List.filter_eq_nil_iff.mpr (List.forall_mem_map.mpr fun q hq => Bool.eq_false_iff.mp ?_)
      have hq := List.mem_range.mp hq
      exact beginsRun_eq_false_of_inside hrun (by omega) (by omega)
    rw [runSlots, hr, List.range_succ_eq_map, List.map_cons, List.map_map, Nat.add_zero, List.filter_cons_of_pos hi]
    exact congrArg (i :: ·) hrest
  rw [runsBefore, dirtyBefore, List.range_add, List.filter_append, List.filter_append]
  exact ⟨congrArg _ hbegins, congrArg _ hdirty⟩

/-- The dirty slots are those of the maximal runs, run by run (R161). -/
theorem dirtyBefore_eq_flatMap {stop : Nat} (h : s.FlushVisits stop) :
    dirtyBefore s stop = (runsBefore s stop).flatMap (runSlots s) := by
  induction h with
  | first => rfl
  | afterClean _ _ hclean ih =>
    obtain ⟨hruns, hdirty⟩ := passed_succ_of_clean hclean
    rw [hruns, hdirty, ih]
  | afterRun hvisit hd ih =>
    obtain ⟨hruns, hdirty⟩ := passed_run (hvisit.beginsRun hd)
    rw [hruns, hdirty, ih, List.flatMap_append, List.flatMap_singleton]

/-- Before the first slot of run number `k` begin `k` runs. -/
theorem runsBefore_of_getElem? {k i : Nat} (h : (runStarts s)[k]? = some i) :
    runsBefore s i = (runStarts s).take k ∧ (runsBefore s i).length = k := by
  have htake : runsBefore s i = (runStarts s).take k := filter_range_eq_take h
  refine ⟨htake, ?_⟩
  rw [htake, List.length_take, min_eq_left (List.getElem?_eq_some_iff.mp h).1.le]

theorem dirtySlots_filter_lt {stop : Nat} (h : stop ≤ s.slots.length) :
    (dirtySlots s).filter (· < stop) = dirtyBefore s stop := by
  obtain ⟨m, hm⟩ := Nat.exists_eq_add_of_le h
  have hbefore : (List.range stop).filter (fun j => decide (j < stop) && s.dirtyAt j) = dirtyBefore s stop :=
    List.filter_congr fun j hj => by rw [decide_eq_true (List.mem_range.mp hj), Bool.true_and]
  have hafter : ((List.range m).map (stop + ·)).filter (fun j => decide (j < stop) && s.dirtyAt j) = [] :=
    List.filter_eq_nil_iff.mpr (List.forall_mem_map.mpr fun q _ => by simp)
  rw [dirtySlots, List.filter_filter, hm, List.range_add, List.filter_append, hbefore, hafter, List.append_nil]

/-! ### One write of a run (R160, R211) -/

theorem writeBlocks_concat (m : Memory) (blk : Nat) (bs : List Block) (b : Block) :
    Memory.writeBlocks m blk (bs ++ [b]) = Memory.writeBlock (Memory.writeBlocks m blk bs) (blk + bs.length) b := by
  induction bs generalizing m blk with
  | nil => rfl
  | cons c cs ih => rw [List.cons_append, Memory.writeBlocks, ih, List.length_cons, Nat.add_assoc, Nat.add_comm 1]; rfl

/-- A run's blocks are consecutive: one write of them is the write of each slot to its tagged block (R161). -/
theorem writeBlocks_run {i r : Nat} (h : ∀ q < r, (s.slot (i + q)).tag.toNat = (s.slot i).tag.toNat + q) (m : Memory) :
    Memory.writeBlocks m (s.slot i).tag.toNat ((List.range r).map fun q => (s.slot (i + q)).data) =
      writtenBack m s ((List.range r).map (i + ·)) := by
  induction r with
  | zero => rfl
  | succ r ih =>
    rw [List.range_succ, List.map_append, List.map_append, List.map_singleton, List.map_singleton, writeBlocks_concat,
      writtenBack_concat, ih fun q hq => h q (by omega), List.length_map, List.length_range, h r (Nat.lt_succ_self r)]

theorem writtenBack_append (m : Memory) (js ks : List Nat) :
    writtenBack m s (js ++ ks) = writtenBack (writtenBack m s js) s ks :=
  List.foldl_append

/-- A run's write that the device acknowledges: its blocks are on the medium, and the command goes on (R160, R207). -/
theorem await_run_ok {rest : List Input} (i : Nat) (c : Cont) (k : State → State) (hin : s.inputs = .device .ok :: rest) :
    s.await (s.runOf i (runLen s i) c) k = k
      { s with
        medium := Memory.writeBlocks s.medium (s.slot i).tag.toNat
          ((List.range (runLen s i)).map fun q => (s.slot (i + q)).data)
        devLog := s.devLog ++ [runTxn s .ok i]
        inputs := rest } :=
  await_ok k hin

/-- A run's write that fails or is cancelled: its blocks are free, and the command ends (R207, R211(c); log entries 3 and
1). -/
theorem await_run_failsWith {x : Input} {rep : Reply} {rest : List Input} (i : Nat) (c : Cont) (k : State → State)
    (hin : s.inputs = x :: rest) (hx : failsWith x rep) :
    s.await (s.runOf i (runLen s i) c) k = endedBy
      { s with
        medium := Memory.writeBlocks s.medium (s.slot i).tag.toNat
          ((List.range (runLen s i)).map fun q => freeBlock (s.draws + q))
        draws := s.draws + runLen s i
        devLog := s.devLog ++ [runTxn s rep i]
        inputs := rest } rep := by
  rw [State.await, reply_failsWith hin hx]
  exact settle_eq_endedBy hx _ k

/-! ### States whose slots before `stop` have been cleaned -/

theorem length_of_cleaned {t : State} {stop : Nat} (h : t.slots = cleaned s stop) : t.slots.length = s.slots.length := by
  rw [h]
  simp [cleaned, slotMap]

theorem slot_of_cleaned {t : State} {stop : Nat} (h : t.slots = cleaned s stop) (j : Nat) :
    t.slot j = if s.dirtyAt j && j < stop then { s.slot j with dirty := false } else s.slot j := by
  by_cases hj : j < s.slots.length
  · simp [State.slot, h, cleaned, slotMap, hj]
  · have hclean : s.dirtyAt j = false := Bool.eq_false_iff.mpr fun hd => hj (lt_of_dirtyAt hd)
    rw [slot_out t (length_of_cleaned h ▸ not_lt.mp hj), slot_out s (not_lt.mp hj), hclean]
    rfl

theorem slot_of_cleaned_of_le {t : State} {stop j : Nat} (h : t.slots = cleaned s stop) (hj : stop ≤ j) :
    t.slot j = s.slot j := by
  rw [slot_of_cleaned h, decide_eq_false (not_lt.mpr hj), Bool.and_false, if_neg Bool.false_ne_true]

theorem dirtyAt_of_cleaned {t : State} {stop : Nat} (h : t.slots = cleaned s stop) (j : Nat) :
    t.dirtyAt j = (s.dirtyAt j && decide (stop ≤ j)) := by
  by_cases hj : stop ≤ j
  · rw [State.dirtyAt, slot_of_cleaned_of_le h hj, decide_eq_true hj, Bool.and_true]
    rfl
  · rw [decide_eq_false hj, Bool.and_false, State.dirtyAt, slot_of_cleaned h, decide_eq_true (not_le.mp hj), Bool.and_true]
    split
    · exact Bool.and_false _
    · exact Bool.eq_false_iff.mpr ‹_›

theorem dirtySlots_of_all_cleaned {t : State} (h : t.slots = cleaned s s.slots.length) : dirtySlots t = [] :=
  List.filter_eq_nil_iff.mpr fun j hj => by
    have hlt : j < s.slots.length := length_of_cleaned h ▸ List.mem_range.mp hj
    rw [dirtyAt_of_cleaned h, decide_eq_false (not_le.mpr hlt), Bool.and_false]
    exact Bool.false_ne_true

theorem le_of_beginsRun_of_cleaned {t : State} {stop j : Nat} (h : t.slots = cleaned s stop) (hj : beginsRun t j = true) :
    stop ≤ j := by
  have hd := dirtyAt_of_beginsRun hj
  rw [dirtyAt_of_cleaned h, Bool.and_eq_true, decide_eq_true_iff] at hd
  exact hd.2

/-- From a slot not yet cleaned on, a run is what it was. -/
theorem run_of_cleaned {t : State} {stop i : Nat} (h : t.slots = cleaned s stop) (hi : stop ≤ i) :
    runLen t i = runLen s i ∧ ∀ rep, runTxn t rep i = runTxn s rep i := by
  have hslot (q : Nat) : t.slot (i + q) = s.slot (i + q) := slot_of_cleaned_of_le h (by omega)
  have hlen : runLen t i = runLen s i := by
    simp only [runLen, State.dirtyAt, length_of_cleaned h, hslot, slot_of_cleaned_of_le h hi]
  exact ⟨hlen, fun rep => by simp only [runTxn, hlen, hslot, slot_of_cleaned_of_le h hi]⟩

theorem cleaned_zero : cleaned s 0 = s.slots :=
  (slots_eq_slotMap rfl fun i _ => by rw [decide_eq_false (Nat.not_lt_zero i), Bool.and_false, if_neg Bool.false_ne_true]).symm

theorem cleaned_succ_of_clean {i : Nat} (hi : s.dirtyAt i = false) : cleaned s (i + 1) = cleaned s i :=
  List.map_congr_left fun j _ => by
    by_cases hij : j = i
    · simp [hij, hi]
    · simp only [Nat.lt_succ_iff_lt_or_eq, hij, or_false]

theorem cleanRun_slots_of_cleaned {t : State} {i r : Nat} (h : t.slots = cleaned s i) (hrun : s.IsRun i r) :
    (t.cleanRun i r).slots = cleaned s (i + r) := by
  obtain ⟨-, -, hall⟩ := hrun
  have hcount : (t.cleanRun i r).slots.length = s.slots.length :=
    (cleanRun_shrinks t i r).count.trans (length_of_cleaned h)
  refine slots_eq_slotMap hcount fun j _ => ?_
  rw [slot_cleanRun, slot_of_cleaned h]
  by_cases hj : i ≤ j ∧ j < i + r
  · obtain ⟨hd, -⟩ := hall (j - i) (by omega)
    rw [Nat.add_sub_cancel' hj.1] at hd
    rw [if_pos hj, hd, decide_eq_true hj.2, Bool.and_self, if_pos rfl]
    split <;> rfl
  · rw [if_neg hj, decide_eq_decide.mpr (show j < i + r ↔ j < i by omega)]

/-! ### Passing slots and runs (R160) -/

/-- The state of `FLUSH` when it comes to slot `stop`, every run so far acknowledged (R160). -/
def State.flushedTo (s : State) (stop : Nat) (rest : List Input) : State :=
  { s with
    slots := cleaned s stop
    view := { s.view with valid := false }
    medium := writtenBack s.medium s (dirtyBefore s stop)
    devLog := s.devLog ++ (runsBefore s stop).map (runTxn s .ok)
    inputs := rest }

theorem flushedTo_slots (stop : Nat) (rest : List Input) : (s.flushedTo stop rest).slots = cleaned s stop := rfl

theorem length_flushedTo (stop : Nat) (rest : List Input) : (s.flushedTo stop rest).slots.length = s.slots.length :=
  length_of_cleaned (flushedTo_slots stop rest)

theorem dirtyAt_flushedTo_self (stop : Nat) (rest : List Input) : (s.flushedTo stop rest).dirtyAt stop = s.dirtyAt stop := by
  rw [dirtyAt_of_cleaned (flushedTo_slots stop rest), decide_eq_true (le_refl stop), Bool.and_true]

theorem flushedTo_zero {rest : List Input} (hin : s.inputs = rest) : s.flushedTo 0 rest = s.dropView := by
  rw [State.flushedTo, cleaned_zero, ← hin]
  exact congrArg (fun log => { s.dropView with devLog := log }) (List.append_nil _)

theorem flushedTo_succ_of_clean {i : Nat} (hi : s.dirtyAt i = false) (rest : List Input) :
    s.flushedTo (i + 1) rest = s.flushedTo i rest := by
  obtain ⟨hruns, hdirty⟩ := passed_succ_of_clean hi
  rw [State.flushedTo, cleaned_succ_of_clean hi, hruns, hdirty]
  rfl

/-- A run's write and the cleaning of its slots (R160). -/
theorem flushedTo_run {i : Nat} (hi : beginsRun s i = true) (taken rest : List Input) :
    s.flushedTo (i + runLen s i) rest =
      State.cleanRun
        { s.flushedTo i taken with
          medium := Memory.writeBlocks (s.flushedTo i taken).medium (s.slot i).tag.toNat
            ((List.range (runLen s i)).map fun q => (s.slot (i + q)).data)
          devLog := (s.flushedTo i taken).devLog ++ [runTxn s .ok i]
          inputs := rest } i (runLen s i) := by
  obtain ⟨hrun, -⟩ := runLen_isMaximalRun (dirtyAt_of_beginsRun hi)
  obtain ⟨hruns, hdirty⟩ := passed_run hi
  have ⟨_, _, hall⟩ := hrun
  rw [cleanRun_fields, cleanRun_slots_of_cleaned rfl hrun, writeBlocks_run fun q hq => (hall q hq).2, State.flushedTo, hruns,
    hdirty, writtenBack_append, List.map_append, ← List.append_assoc]
  rfl

/-- A pass over a slot that is not dirty takes no input (R160). -/
theorem flushLoop_pass_clean {i : Nat} (hlt : i < s.slots.length) (hi : s.dirtyAt i = false) (fuel runs blocks : Nat)
    (rest : List Input) :
    flushLoop (fuel + 1) i runs blocks (s.flushedTo i rest) = flushLoop fuel (i + 1) runs blocks (s.flushedTo (i + 1) rest) := by
  rw [flushLoop_succ, length_flushedTo, if_pos hlt, dirtyAt_flushedTo_self, hi, if_neg Bool.false_ne_true,
    flushedTo_succ_of_clean hi]

/-- A pass over a run is a suspension point at its write (R160). -/
theorem flushLoop_await {i : Nat} (hi : s.dirtyAt i = true) (fuel runs blocks : Nat) (rest : List Input) :
    flushLoop (fuel + 1) i runs blocks (s.flushedTo i rest) =
      (s.flushedTo i rest).await
        ((s.flushedTo i rest).runOf i (runLen (s.flushedTo i rest) i) (.flush i (runLen s i) fuel runs blocks))
        (resume (.flush i (runLen s i) fuel runs blocks)) := by
  have hd := (dirtyAt_flushedTo_self i rest).trans hi
  have hlen := (run_of_cleaned (flushedTo_slots (s := s) i rest) (le_refl i)).1
  rw [flushLoop_succ, length_flushedTo, if_pos (lt_of_dirtyAt hi), if_pos hd, runLength_eq_runLen hd, hlen]

/-- A pass over a run whose write the device acknowledges (R160). -/
theorem flushLoop_pass_run {i : Nat} (hi : beginsRun s i = true) (fuel runs blocks : Nat) (rest : List Input) :
    flushLoop (fuel + 1) i runs blocks (s.flushedTo i (.device .ok :: rest)) =
      flushLoop fuel (i + runLen s i) (runs + 1) (blocks + runLen s i) (s.flushedTo (i + runLen s i) rest) := by
  have hslots := flushedTo_slots (s := s) i (.device .ok :: rest)
  obtain ⟨hlen, htxn⟩ := run_of_cleaned hslots (le_refl i)
  rw [flushLoop_await (dirtyAt_of_beginsRun hi), await_run_ok i _ _ rfl, htxn, hlen,
    flushedTo_run hi (.device .ok :: rest)]
  simp only [slot_of_cleaned_of_le hslots (Nat.le_add_right i _), slot_of_cleaned_of_le hslots (le_refl i)]
  rfl

/-- `FLUSH` comes to each slot of `FlushVisits` with an acknowledgement for each run before it (R160). -/
theorem flushLoop_visits {i : Nat} (h : s.FlushVisits i) (rest : List Input) :
    ∃ fuel, s.slots.length ≤ i + fuel ∧
      flushLoop s.slots.length 0 0 0 (s.flushedTo 0 (oks (runsBefore s i).length rest)) =
        flushLoop fuel i (runsBefore s i).length (dirtyBefore s i).length (s.flushedTo i rest) := by
  induction h generalizing rest with
  | first => exact ⟨s.slots.length, Nat.le_add_left _ _, rfl⟩
  | @afterClean i _ hlt hclean ih =>
    obtain ⟨hruns, hdirty⟩ := passed_succ_of_clean hclean
    obtain ⟨fuel, hfuel, hloop⟩ := ih rest
    obtain ⟨fuel, rfl⟩ := Nat.exists_eq_add_of_le' (show 1 ≤ fuel by omega)
    refine ⟨fuel, by omega, ?_⟩
    rw [hruns, hdirty, hloop, flushLoop_pass_clean hlt hclean]
  | @afterRun i hvisit hd ih =>
    have hbegins := hvisit.beginsRun hd
    obtain ⟨⟨hpos, -⟩, -⟩ := runLen_isMaximalRun hd
    obtain ⟨hruns, hdirty⟩ := passed_run hbegins
    obtain ⟨fuel, hfuel, hloop⟩ := ih (.device .ok :: rest)
    obtain ⟨fuel, rfl⟩ := Nat.exists_eq_add_of_le' (show 1 ≤ fuel by have := lt_of_dirtyAt hd; omega)
    refine ⟨fuel, by omega, ?_⟩
    rw [hruns, hdirty, List.length_append, List.length_append, List.length_singleton, oks_succ, hloop,
      flushLoop_pass_run hbegins, runSlots, List.length_map, List.length_range]

theorem flushLoop_end {i : Nat} (h : s.slots.length ≤ i) (fuel runs blocks : Nat) :
    flushLoop fuel i runs blocks s = s.ret (BitVec.ofNat 32 runs) (BitVec.ofNat 32 blocks) := by
  cases fuel with
  | zero => rfl
  | succ fuel => rw [flushLoop_succ, if_neg (not_lt.mpr h)]

/-! ### A `FLUSH` after one that failed (R162) -/

/-- What is left of the runs once the slots before the first slot of one of them are clean. -/
theorem runStarts_of_cleaned {t : State} {i : Nat} (h : t.slots = cleaned s i) (hi : beginsRun s i = true) :
    runStarts s = runsBefore s i ++ runStarts t := by
  have hd := dirtyAt_of_beginsRun hi
  obtain ⟨m, hm⟩ := Nat.exists_eq_add_of_le (lt_of_dirtyAt hd).le
  have hbefore : (List.range i).filter (beginsRun t) = [] :=
    List.filter_eq_nil_iff.mpr fun j hj hb =>
      absurd (List.mem_range.mp hj) (not_lt.mpr (le_of_beginsRun_of_cleaned h hb))
  have hfrom (q : Nat) : beginsRun s (i + q) = beginsRun t (i + q) := by
    cases q with
    | zero =>
      have hself : t.dirtyAt i = true := by rw [dirtyAt_of_cleaned h, hd, decide_eq_true (le_refl i), Bool.and_true]
      have hprev (hpos : 1 ≤ i) : ¬ t.dirtyAt (i - 1) = true := by
        rw [dirtyAt_of_cleaned h, decide_eq_false (by omega), Bool.and_false]
        exact Bool.false_ne_true
      exact hi.trans ((beginsRun_iff t i).mpr ⟨hself, fun ⟨hpos, hd', _⟩ => hprev hpos hd'⟩).symm
    | succ q =>
      have hslot := slot_of_cleaned_of_le h (Nat.le_add_right i (q + 1))
      have hprev := slot_of_cleaned_of_le h (Nat.le_add_right i q)
      simp only [beginsRun, State.dirtyAt, Nat.add_succ_sub_one, hslot, hprev]
  have hafter : ((List.range m).map (i + ·)).filter (beginsRun s) = ((List.range m).map (i + ·)).filter (beginsRun t) :=
    List.filter_congr (List.forall_mem_map.mpr fun q _ => hfrom q)
  rw [runStarts, runStarts, length_of_cleaned h, hm, List.range_add, List.filter_append, List.filter_append, hbefore, hafter]
  rfl

/-! ### Acknowledged writes -/

theorem acknowledged_append (xs ys : List Txn) : acknowledged (xs ++ ys) = acknowledged xs ++ acknowledged ys := by
  rw [acknowledged, List.filter_append, List.flatMap_append]
  rfl

theorem acknowledged_singleton_of_ne {txn : Txn} (h : txn.reply ≠ .ok) : acknowledged [txn] = [] := by
  simp [acknowledged, h]

/-- An acknowledged run is its slots' blocks and data, one by one (R161). -/
theorem acknowledged_runTxn {i : Nat} (hi : s.dirtyAt i = true) :
    acknowledged [runTxn s .ok i] = (runSlots s i).map fun j => ((s.slot j).tag.toNat, (s.slot j).data) := by
  obtain ⟨⟨-, -, hall⟩, -⟩ := runLen_isMaximalRun hi
  have hone : acknowledged [runTxn s .ok i] = (List.range (runLen s i)).map fun q => ((s.slot i).tag.toNat + q,
      ((List.range (runLen s i)).map fun q => (s.slot (i + q)).data).getD q default) := by
    simp [acknowledged, runTxn]
  rw [hone, runSlots, List.map_map]
  refine List.map_congr_left fun q hq => Prod.ext (hall q (List.mem_range.mp hq)).2.symm ?_
  simp [List.mem_range.mp hq]

theorem acknowledged_runs {is : List Nat} (h : ∀ i ∈ is, s.dirtyAt i = true) :
    acknowledged (is.map (runTxn s .ok)) =
      (is.flatMap (runSlots s)).map fun j => ((s.slot j).tag.toNat, (s.slot j).data) := by
  induction is with
  | nil => rfl
  | cons i is ih =>
    obtain ⟨hi, his⟩ := List.forall_mem_cons.mp h
    rw [List.map_cons, ← List.singleton_append, acknowledged_append, acknowledged_runTxn hi, ih his, List.flatMap_cons,
      List.map_append]

theorem dirtySlots_eq_flatMap (s : State) : dirtySlots s = (runStarts s).flatMap (runSlots s) :=
  dirtyBefore_eq_flatMap (visits_end s)

theorem mem_runStarts {i : Nat} (h : i ∈ runStarts s) : beginsRun s i = true := (List.mem_filter.mp h).2

/-- The report of a failed transaction touches neither slots, device log nor inputs. -/
theorem endedBy_fields (s : State) (rep : Reply) :
    (endedBy s rep).slots = s.slots ∧ (endedBy s rep).devLog = s.devLog ∧ (endedBy s rep).inputs = s.inputs := by
  cases rep <;> exact ⟨rfl, rfl, rfl⟩

theorem reply_ne_ok_of_failsWith {x : Input} {rep : Reply} (hx : failsWith x rep) : rep ≠ .ok := by
  rcases hx with ⟨e, -, rfl⟩ | ⟨-, rfl⟩ <;> exact Reply.noConfusion

end

/-! ### The obligations -/

theorem exec_flush (s : State) : exec .flush s = .next (flushLoop s.slots.length 0 0 0 s.dropView) := rfl

/-- Settles O34: `FLUSH` comes to the end of the slots. -/
theorem flushWritesEveryDirtyRun : Obligations.FlushWritesEveryDirtyRun := by
  intro s rest hin
  obtain ⟨fuel, -, hloop⟩ := flushLoop_visits (visits_end s) rest
  rw [flushedTo_zero (rest := oks (runsBefore s s.slots.length).length rest) hin,
    flushLoop_end (length_flushedTo _ rest).le] at hloop
  rw [exec_flush, hloop]
  rfl

/-- Settles O35: `FLUSH` comes to the first slot of the failing run and stops at its write. -/
theorem flushRunFails : Obligations.FlushRunFails := by
  intro s k i x rep rest hi hin hx
  have hbegins := mem_runStarts (List.mem_of_getElem? hi)
  have hd := dirtyAt_of_beginsRun hbegins
  have hlt := lt_of_dirtyAt hd
  obtain ⟨htake, hk⟩ := runsBefore_of_getElem? hi
  have hslots := flushedTo_slots (s := s) i (x :: rest)
  obtain ⟨hlen, htxn⟩ := run_of_cleaned hslots (le_refl i)
  obtain ⟨fuel, hfuel, hloop⟩ := flushLoop_visits (visits_of_beginsRun hbegins) (x :: rest)
  obtain ⟨fuel, rfl⟩ := Nat.exists_eq_add_of_le' (show 1 ≤ fuel by omega)
  rw [hk, flushedTo_zero hin, flushLoop_await hd, await_run_failsWith i _ _ rfl hx, htxn, hlen,
    slot_of_cleaned_of_le hslots (le_refl i)] at hloop
  rw [exec_flush, hloop, dirtySlots_filter_lt hlt.le, ← htake]
  rfl

/-- Settles O36: the retry writes the runs from the failing one on, as the first `FLUSH` left them. -/
theorem flushRetryWritesEachDirtyBlockOnce : Obligations.FlushRetryWritesEachDirtyBlockOnce := by
  intro s k x rep rest hk hin hx
  obtain ⟨i, hi⟩ : ∃ i, (runStarts s)[k]? = some i := ⟨_, List.getElem?_eq_getElem hk⟩
  have hbegins := mem_runStarts (List.mem_of_getElem? hi)
  obtain ⟨htake, hbefore⟩ := runsBefore_of_getElem? hi
  obtain ⟨t, hfirst, hslots, hlog, hinputs⟩ : ∃ t, exec .flush s = .next t ∧ t.slots = cleaned s i ∧
      t.devLog = s.devLog ++ (runsBefore s i).map (runTxn s .ok) ++ [runTxn s rep i] ∧
        t.inputs = oks ((runStarts s).length - k) rest :=
    htake ▸ ⟨_, flushRunFails s k i x rep _ hi hin hx, endedBy_fields _ rep⟩
  have hsplit := runStarts_of_cleaned hslots hbegins
  have hleft : (runStarts s).length - k = (runStarts t).length := by
    rw [hsplit, List.length_append, hbefore, Nat.add_sub_cancel_left]
  refine ⟨t, flushed t rest, hfirst, flushWritesEveryDirtyRun t rest (hleft ▸ hinputs), rfl,
    dirtySlots_of_all_cleaned (s := t) rfl, ?_⟩
  have htxns : (runStarts t).map (runTxn t .ok) = (runStarts t).map (runTxn s .ok) := List.map_congr_left fun j hj =>
    (run_of_cleaned hslots (le_of_beginsRun_of_cleaned hslots (mem_runStarts hj))).2 .ok
  have hboth : newTxns s (flushed t rest) =
      (runsBefore s i).map (runTxn s .ok) ++ [runTxn s rep i] ++ (runStarts t).map (runTxn s .ok) :=
    newTxns_eq (by rw [← htxns, ← List.append_assoc, ← List.append_assoc, ← hlog]; rfl)
  calc acknowledged (newTxns s (flushed t rest))
      = acknowledged ((runsBefore s i).map (runTxn s .ok)) ++ acknowledged ((runStarts t).map (runTxn s .ok)) := by
        rw [hboth, acknowledged_append, acknowledged_append, acknowledged_singleton_of_ne (reply_ne_ok_of_failsWith hx),
          List.append_nil]
    _ = acknowledged ((runStarts s).map (runTxn s .ok)) := by rw [← acknowledged_append, ← List.map_append, ← hsplit]
    _ = (dirtySlots s).map fun j => ((s.slot j).tag.toNat, (s.slot j).data) := by
        rw [acknowledged_runs fun j hj => dirtyAt_of_beginsRun (mem_runStarts hj), ← dirtySlots_eq_flatMap]

/-- Settles O37: the command is its report. -/
theorem nopOnlyReports : Obligations.NopOnlyReports := fun _ => rfl

end Sys2Proof.Machine

/-! # The header codec (R170 to R189)

A word of the header is four of its bytes, so what a write does to the entries is known entry by entry. The 64 entries are the
live ones and the ones past them (`liveEntries_append_pastEntries`); `HNEW` puts an entry between the two parts, `HDEL` takes one
out of the first and puts a zero after the second, and the directory's properties are read off the two lists. -/

namespace Sys2Proof.Machine

open Sys2Proof Sys2Proof.Claims

/-! ### Words of a block (R13, R60) -/

theorem blockWord_toNat (b : Block) (o : Nat) : (blockWord b o).toNat = getWord b o := by
  have h0 := (blockByte b o).isLt
  have h1 := (blockByte b (o + 1)).isLt
  have h2 := (blockByte b (o + 2)).isLt
  have h3 := (blockByte b (o + 3)).isLt
  simp only [blockWord, le32Read, getWord, BitVec.toNat_ofNat]
  omega

/-- The bytes of `le32` of a word read are the bytes read (R13). -/
theorem le32Byte_blockWord (b : Block) (o : Nat) {i : Nat} (hi : i < 4) :
    le32Byte (blockWord b o) i = blockByte b (o + i) := by
  have h0 := (blockByte b o).isLt
  have h1 := (blockByte b (o + 1)).isLt
  have h2 := (blockByte b (o + 2)).isLt
  have h3 := (blockByte b (o + 3)).isLt
  apply BitVec.eq_of_toNat_eq
  rw [le32Byte, BitVec.extractLsb'_toNat, blockWord_toNat, getWord, Nat.shiftRight_eq_div_pow]
  interval_cases i <;> norm_num <;> omega

/-- Two blocks with the same four bytes there have the same word there. -/
theorem blockWord_congr {a b : Block} {o q : Nat} (h : ∀ i < 4, blockByte a (o + i) = blockByte b (q + i)) :
    blockWord a o = blockWord b q := by
  rw [blockWord, blockWord, h 1 (by omega), h 2 (by omega), h 3 (by omega)]
  exact congrArg (le32Read · _ _ _) (h 0 (by omega))

/-! ### The entries (R170, R171) -/

theorem entryStart_headerEntry (h : Block) (j : Nat) : entryStart (headerEntry h j) = startOf (entryNat h j) := by
  rw [entryStart, BitVec.extractLsb'_toNat, headerEntry, blockWord_toNat]
  rfl

theorem entryId_headerEntry (h : Block) (j : Nat) : entryId (headerEntry h j) = idOf (entryNat h j) := by
  rw [entryId, BitVec.extractLsb'_toNat, headerEntry, blockWord_toNat, Nat.shiftRight_eq_div_pow]
  rfl

@[simp] theorem length_headerEntries (h : Block) : (headerEntries h).length = 64 := by simp [headerEntries]

@[simp] theorem getElem_headerEntries (h : Block) {j : Nat} (hj : j < (headerEntries h).length) :
    (headerEntries h)[j] = headerEntry h j := by simp [headerEntries]

/-- A word written over an entry is that entry, and no other entry changes. -/
theorem headerEntries_setWord (h : Block) {n : Nat} (hn : n < 64) (w : Word) :
    headerEntries (blockSetWord h (4 + 4 * n) w) = (headerEntries h).set n w := by
  refine List.ext_getElem (by simp) fun j hj _ => ?_
  rw [getElem_headerEntries, List.getElem_set, getElem_headerEntries, headerEntry, headerEntry]
  split
  · next heq => rw [← heq, blockWord_setWord _ _ (by omega)]
  · exact blockWord_setWord_of_disjoint _ _ (by omega) (by omega)

/-- The entries of a header whose entries are replaced (R183). -/
theorem headerEntries_withEntries (h : Block) {ws : List Word} (hws : ws.length = 64) :
    headerEntries (withEntries h ws) = ws := by
  refine List.ext_getElem (by simp [hws]) fun j hj hw => ?_
  have hj : j < 64 := by simpa using hj
  have hbyte (i : Nat) (hi : i < 4) : blockByte (withEntries h ws) (4 + 4 * j + i) = le32Byte ws[j] i := by
    rw [withEntries, blockByte_gen _ (by omega), if_pos (by omega), show (4 + 4 * j + i - 4) / 4 = j by omega,
      show (4 + 4 * j + i - 4) % 4 = i by omega, List.getD_eq_getElem _ _ hw]
  rw [getElem_headerEntries, headerEntry, blockWord, hbyte 1 (by omega), hbyte 2 (by omega), hbyte 3 (by omega)]
  exact (congrArg (le32Read · _ _ _) (hbyte 0 (by omega))).trans (le32Read_le32Byte _)

theorem headerEntries_zeroBlock : headerEntries zeroBlock = List.replicate 64 0 := by
  refine List.ext_getElem (by simp) fun j hj _ => ?_
  have hj : j < 64 := by simpa using hj
  rw [getElem_headerEntries, List.getElem_replicate, headerEntry, blockWord, zeroBlock, blockByte_gen _ (by omega),
    blockByte_gen _ (by omega), blockByte_gen _ (by omega), blockByte_gen _ (by omega)]
  rfl

/-! ### The live entries (R172) -/

/-- The entry is not empty (R172). -/
def entryLive (w : Word) : Bool := entryStart w ≠ 0

theorem entryLive_headerEntry (h : Block) (j : Nat) :
    entryLive (headerEntry h j) = true ↔ startOf (entryNat h j) ≠ 0 := by
  rw [entryLive, decide_eq_true_iff, entryStart_headerEntry]

/-- The entries from the first empty one on (R172). -/
def pastEntries (h : Block) : List Word := (headerEntries h).dropWhile entryLive

theorem liveEntries_append_pastEntries (h : Block) : liveEntries h ++ pastEntries h = headerEntries h :=
  List.takeWhile_append_dropWhile

theorem entryLive_of_mem {h : Block} {w : Word} (hw : w ∈ liveEntries h) : entryLive w = true :=
  List.mem_takeWhile_imp hw

/-- The entries past the live ones begin with an empty one, whatever is put after them. -/
theorem takeWhile_pastEntries_append (h : Block) {ws : List Word} (hws : ws.takeWhile entryLive = []) :
    (pastEntries h ++ ws).takeWhile entryLive = [] := by
  have hpast : (pastEntries h).takeWhile entryLive = [] :=
    List.takeWhile_eq_nil_iff.mpr fun hl => List.dropWhile_get_zero_not entryLive (headerEntries h) hl
  rw [List.takeWhile_append, hpast]
  split
  · next hnil => rw [List.eq_nil_of_length_eq_zero hnil.symm, hws, List.nil_append]
  · rfl

theorem liveCount_eq_findIdx (h : Block) : liveCount h = (headerEntries h).findIdx fun w => !entryLive w := by
  have htake : liveEntries h = (headerEntries h).take ((headerEntries h).findIdx fun w => !entryLive w) :=
    List.takeWhile_eq_take_findIdx_not
  rw [liveCount, htake, List.length_take, min_eq_left List.findIdx_le_length]

theorem liveCount_le (h : Block) : liveCount h ≤ 64 :=
  (liveCount_eq_findIdx h).trans_le (List.findIdx_le_length.trans_eq (length_headerEntries h))

/-- Settles O41: both are the index of the first entry that is not live. -/
theorem liveCountIsFirstEmptyEntry : Obligations.LiveCountIsFirstEmptyEntry := by
  intro h n
  have hlive {j : Nat} : (!entryLive (headerEntry h j)) = false ↔ startOf (entryNat h j) ≠ 0 := by
    rw [Bool.not_eq_false', entryLive_headerEntry]
  have hempty {j : Nat} : (!entryLive (headerEntry h j)) = true ↔ startOf (entryNat h j) = 0 := by
    rw [← Bool.not_eq_false, hlive, not_not]
  rw [isLiveCount, liveCount_eq_findIdx, @eq_comm _ n]
  rcases lt_trichotomy n 64 with hn | rfl | hn
  · rw [List.findIdx_eq (by simpa using hn)]
    simp only [getElem_headerEntries, hlive, hempty]
    exact ⟨fun ⟨_, hbefore, hat⟩ => ⟨hat hn, hbefore⟩, fun ⟨hat, hbefore⟩ => ⟨hn.le, hbefore, fun _ => hat⟩⟩
  · have hall := List.findIdx_eq_length (p := fun w => !entryLive w) (xs := headerEntries h)
    rw [length_headerEntries] at hall
    rw [hall, List.forall_mem_iff_getElem]
    simp only [getElem_headerEntries, hlive, length_headerEntries]
    exact ⟨fun ⟨_, hbefore, _⟩ => hbefore, fun hbefore => ⟨le_refl _, hbefore, fun hlt => absurd hlt (lt_irrefl _)⟩⟩
  · have hle := (liveCount_eq_findIdx h).symm.trans_le (liveCount_le h)
    exact ⟨fun ⟨hn', _⟩ => by omega, fun heq => by omega⟩

theorem eq_liveCount_of_isLiveCount {h : Block} {n : Nat} (hn : isLiveCount h n) : n = liveCount h :=
  (liveCountIsFirstEmptyEntry h n).mp hn

theorem getElem_liveEntries (h : Block) {j : Nat} (hj : j < (liveEntries h).length) : (liveEntries h)[j] = headerEntry h j :=
  ((List.takeWhile_prefix entryLive).getElem hj).trans (getElem_headerEntries h _)

theorem mem_usedIds {h : Block} {id : Nat} : id ∈ usedIds h ↔ ∃ j < liveCount h, idOf (entryNat h j) = id := by
  simp only [usedIds, List.mem_iff_getElem, List.length_map, List.getElem_map, getElem_liveEntries, entryId_headerEntry,
    exists_prop, liveCount]

/-! ### Lists of entries and the directory commands' headers (R182, R183) -/

/-- A header's entries split into live ones and a rest that does not begin with one only in one way. -/
theorem liveEntries_of_split {h : Block} {ls rs : List Word} (hsplit : headerEntries h = ls ++ rs)
    (hls : ∀ w ∈ ls, entryLive w = true) (hrs : rs.takeWhile entryLive = []) : liveEntries h = ls ∧ pastEntries h = rs := by
  have hlive : liveEntries h = ls :=
    calc (headerEntries h).takeWhile entryLive
        = ls ++ rs.takeWhile entryLive := by rw [hsplit, List.takeWhile_append_of_pos hls]
      _ = ls := by rw [hrs, List.append_nil]
  refine ⟨hlive, List.append_cancel_left (as := ls) ?_⟩
  rw [← hsplit, ← liveEntries_append_pastEntries h, hlive]

theorem length_pastEntries (h : Block) : (pastEntries h).length = 64 - liveCount h := by
  rw [← length_headerEntries h, ← liveEntries_append_pastEntries h, List.length_append, liveCount, Nat.add_sub_cancel_left]

theorem getElem_pastEntries (h : Block) {k : Nat} (hk : k < (pastEntries h).length) :
    (pastEntries h)[k] = headerEntry h (liveCount h + k) := by
  have hle := liveCount_le h
  have hlt := hk.trans_eq (length_pastEntries h)
  rw [← getElem_headerEntries h (by rw [length_headerEntries]; omega)]
  simp only [← liveEntries_append_pastEntries h, liveCount, List.getElem_append_right (Nat.le_add_right _ _),
    Nat.add_sub_cancel_left]

/-- R189 of the two lists. -/
theorem headerPacked_iff (h : Block) : HeaderPacked h ↔ (usedIds h).Nodup ∧ ∀ w ∈ pastEntries h, w = 0 := by
  have hle := liveCount_le h
  constructor
  · rintro ⟨hdistinct, hzero⟩
    refine ⟨hdistinct, List.forall_mem_iff_getElem.mpr fun k hk => ?_⟩
    have hlt := hk.trans_eq (length_pastEntries h)
    rw [getElem_pastEntries]
    exact hzero _ (Nat.le_add_right _ _) (show _ < 64 by omega)
  · rintro ⟨hdistinct, hzero⟩
    refine ⟨hdistinct, fun j hj hj64 => ?_⟩
    obtain ⟨k, rfl⟩ := Nat.exists_eq_add_of_le hj
    have hk : k < (pastEntries h).length := by
      rw [length_pastEntries]
      exact Nat.lt_sub_of_add_lt (Nat.add_comm k _ ▸ hj64)
    exact (getElem_pastEntries h hk).symm.trans (hzero _ (List.getElem_mem hk))

theorem takeWhile_entryLive_of_zero {ws : List Word} (hws : ∀ w ∈ ws, w = 0) : ws.takeWhile entryLive = [] :=
  List.takeWhile_eq_nil_iff.mpr fun hl => by
    rw [hws _ (List.get_mem ws ⟨0, hl⟩)]
    decide

/-- The lists of the cleared header (R176). -/
theorem liveEntries_zeroBlock : liveEntries zeroBlock = [] ∧ pastEntries zeroBlock = List.replicate 64 0 :=
  liveEntries_of_split headerEntries_zeroBlock nofun (takeWhile_entryLive_of_zero fun _ => List.eq_of_mem_replicate)

/-! ### `HDEL`'s header (R183) -/

theorem headerEntries_removeEntry (h : Block) {j : Nat} (hj : j < 64) :
    headerEntries (removeEntry h j) = (headerEntries h).eraseIdx j ++ [0] :=
  headerEntries_withEntries h (by simp [List.length_eraseIdx, hj])

theorem getD_eraseIdx_headerEntries (h : Block) {j q : Nat} (hj : j < 64) (hq : q < 64) :
    ((headerEntries h).eraseIdx j ++ [0]).getD q 0 =
      if q < j then headerEntry h q else if q < 63 then headerEntry h (q + 1) else 0 := by
  have hlen : ((headerEntries h).eraseIdx j).length = 63 := by simp [List.length_eraseIdx, hj]
  rw [List.getD_eq_getElem _ _ (by simp [hlen, hq])]
  by_cases hq63 : q < 63
  · rw [List.getElem_append_left (hq63.trans_eq hlen.symm), List.getElem_eraseIdx]
    simp only [getElem_headerEntries, hq63, dite_eq_ite, if_true]
  · rw [List.getElem_append_right (by omega), if_neg (by omega), if_neg hq63, List.getElem_singleton]

/-- The model's header without entry `j` is the claim's, byte for byte. -/
theorem removeEntry_eq_entryRemoved (h : Block) {j : Nat} (hj : j < 64) : removeEntry h j = entryRemoved h j := by
  refine block_ext fun p hp => ?_
  rw [removeEntry, withEntries, entryRemoved, blockByte_gen _ hp, blockByte_gen _ hp]
  by_cases hin : 4 ≤ p ∧ p < 260
  · have hi : (p - 4) % 4 < 4 := Nat.mod_lt _ (by decide)
    rw [if_pos hin, getD_eraseIdx_headerEntries h hj (by omega)]
    by_cases hbefore : (p - 4) / 4 < j
    · rw [if_pos hbefore, headerEntry, le32Byte_blockWord _ _ hi, if_neg (by omega), if_neg (by omega)]
      exact congrArg (blockByte h) (by omega)
    by_cases hafter : (p - 4) / 4 < 63
    · rw [if_neg hbefore, if_pos hafter, headerEntry, le32Byte_blockWord _ _ hi, if_pos (by omega)]
      exact congrArg (blockByte h) (by omega)
    · rw [if_neg hbefore, if_neg hafter, if_neg (by omega), if_pos (by omega)]
      simp [le32Byte]
  · rw [if_neg hin, if_neg (by omega), if_neg (by omega)]

/-- A live entry taken out, the lists lose it and gain a zero past the live ones. -/
theorem liveEntries_removeEntry {h : Block} {j : Nat} (hj : j < liveCount h) :
    liveEntries (removeEntry h j) = (liveEntries h).eraseIdx j ∧ pastEntries (removeEntry h j) = pastEntries h ++ [0] := by
  refine liveEntries_of_split ?_ (fun w hw => entryLive_of_mem (List.mem_of_mem_eraseIdx hw))
    (takeWhile_pastEntries_append h (by decide))
  rw [headerEntries_removeEntry h (hj.trans_le (liveCount_le h)), ← liveEntries_append_pastEntries h,
    List.eraseIdx_append_of_lt_length hj, List.append_assoc]

theorem liveCount_removeEntry {h : Block} {j : Nat} (hj : j < liveCount h) : liveCount (removeEntry h j) = liveCount h - 1 := by
  rw [liveCount, (liveEntries_removeEntry hj).1, List.length_eraseIdx_of_lt hj, liveCount]

theorem usedIds_removeEntry {h : Block} {j : Nat} (hj : j < liveCount h) :
    usedIds (removeEntry h j) = (usedIds h).eraseIdx j := by
  rw [usedIds, (liveEntries_removeEntry hj).1, usedIds, List.eraseIdx_map]

theorem headerPacked_removeEntry {h : Block} {j : Nat} (hj : j < liveCount h) (hpacked : HeaderPacked h) :
    HeaderPacked (removeEntry h j) := by
  obtain ⟨hdistinct, hzero⟩ := (headerPacked_iff h).mp hpacked
  rw [headerPacked_iff, usedIds_removeEntry hj, (liveEntries_removeEntry hj).2, List.forall_mem_append]
  exact ⟨hdistinct.sublist (List.eraseIdx_sublist _ _), hzero, by simp⟩

theorem headerRegular_removeEntry {h : Block} {j : Nat} (hj : j < liveCount h) (hregular : HeaderRegular h) :
    HeaderRegular (removeEntry h j) := by
  rw [HeaderRegular, (liveEntries_removeEntry hj).1]
  exact fun w hw => hregular w (List.mem_of_mem_eraseIdx hw)

/-! ### `HNEW`'s header (R182) -/

theorem newEntry_eq (id : Nat) : newEntry id = BitVec.ofNat 32 (4 * id + 4 + 4 * 2 ^ 20 + id * 2 ^ 24) := by
  rw [newEntry, mkEntry, Nat.mul_comm id]

theorem newEntry_toNat {id : Nat} (hid : id < 64) : (newEntry id).toNat = 16777220 * id + 4194308 := by
  have hsum : 4 * id + 4 + 4 * 2 ^ 20 + id * 2 ^ 24 = 16777220 * id + 4194308 := by omega
  rw [newEntry_eq, hsum, BitVec.toNat_ofNat, Nat.mod_eq_of_lt (by omega)]

theorem entry_fields_of_toNat {w : Word} {id : Nat} (hid : id < 64) (hw : w.toNat = 16777220 * id + 4194308) :
    entryStart w = 4 * id + 4 ∧ entryLen w = 4 ∧ entryId w = id := by
  simp only [entryStart, entryLen, entryId, BitVec.extractLsb'_toNat, Nat.shiftRight_eq_div_pow]
  generalize w.toNat = x at hw
  have hlenBits : x / 2 ^ 20 = 16 * id + 4 := by omega
  have hidBits : x / 2 ^ 24 = id := by omega
  omega

/-- The fields of the entry `HNEW` makes (R171, R182). -/
theorem newEntry_fields {id : Nat} (hid : id < 64) :
    entryStart (newEntry id) = 4 * id + 4 ∧ entryLen (newEntry id) = 4 ∧ entryId (newEntry id) = id :=
  entry_fields_of_toNat hid (newEntry_toNat hid)

theorem entryLive_newEntry {id : Nat} (hid : id < 64) : entryLive (newEntry id) = true := by
  rw [entryLive, (newEntry_fields hid).1, decide_eq_true_iff]
  omega

/-- With an entry to spare there is a least id not in use, and it is the model's (R182): 64 ids do not fit into fewer
entries. -/
theorem freeId_spec {h : Block} (hroom : liveCount h < 64) :
    freeId h < 64 ∧ freeId h ∉ usedIds h ∧ ∀ k < freeId h, k ∈ usedIds h := by
  have hsome : ∃ i, lowest 64 (fun i => !(usedIds h).contains i) = some i := by
    refine Option.ne_none_iff_exists'.mp fun hnone => ?_
    have hall : List.range 64 ⊆ usedIds h := fun i hi => by
      simpa using lowest_none.mp hnone i (List.mem_range.mp hi)
    have hfit := (List.subperm_of_subset List.nodup_range hall).length_le
    rw [List.length_range, usedIds, List.length_map] at hfit
    exact absurd hfit (not_le.mpr hroom)
  obtain ⟨i, hi⟩ := hsome
  have hfree : freeId h = i := congrArg (Option.getD · 0) hi
  obtain ⟨hlt, hat, hbelow⟩ := lowest_some.mp hi
  rw [hfree]
  exact ⟨hlt, by simpa using hat, fun k hk => by simpa using hbelow k hk⟩

/-- The header with the entry `HNEW` appends (R182). -/
def withNewEntry (h : Block) : Block := blockSetWord h (4 + 4 * liveCount h) (newEntry (freeId h))

/-- With zeros past the live entries, the appended one is live and takes the place of a zero. -/
theorem liveEntries_withNewEntry {h : Block} (hroom : liveCount h < 64) (hzero : ∀ w ∈ pastEntries h, w = 0) :
    liveEntries (withNewEntry h) = liveEntries h ++ [newEntry (freeId h)] ∧
      pastEntries (withNewEntry h) = (pastEntries h).tail := by
  obtain ⟨x, rest, hpast⟩ := List.exists_cons_of_length_pos
    ((Nat.sub_pos_of_lt hroom).trans_eq (length_pastEntries h).symm)
  rw [hpast] at hzero ⊢
  refine liveEntries_of_split ?_ ?_ (takeWhile_entryLive_of_zero fun w hw => hzero w (List.mem_cons_of_mem x hw))
  · rw [withNewEntry, headerEntries_setWord h hroom, ← liveEntries_append_pastEntries h, hpast, liveCount,
      List.set_append_right _ _ (le_refl _), Nat.sub_self, List.set_cons_zero, List.append_assoc]
    rfl
  · rw [List.forall_mem_append]
    exact ⟨fun w hw => entryLive_of_mem hw, by simpa using entryLive_newEntry (freeId_spec hroom).1⟩

theorem headerPacked_withNewEntry {h : Block} (hroom : liveCount h < 64) (hpacked : HeaderPacked h) :
    HeaderPacked (withNewEntry h) := by
  obtain ⟨hdistinct, hzero⟩ := (headerPacked_iff h).mp hpacked
  obtain ⟨hlt, hfree, -⟩ := freeId_spec hroom
  obtain ⟨hlive, hpast⟩ := liveEntries_withNewEntry hroom hzero
  have hids : usedIds (withNewEntry h) = usedIds h ++ [freeId h] := by
    rw [usedIds, hlive, List.map_append, List.map_singleton, (newEntry_fields hlt).2.2]
    rfl
  rw [headerPacked_iff, hids, hpast, ← List.concat_eq_append]
  exact ⟨hdistinct.concat hfree, fun w hw => hzero w (List.mem_of_mem_tail hw)⟩

theorem headerRegular_withNewEntry {h : Block} (hroom : liveCount h < 64) (hpacked : HeaderPacked h)
    (hregular : HeaderRegular h) : HeaderRegular (withNewEntry h) := by
  obtain ⟨hstart, hlen, hid⟩ := newEntry_fields (freeId_spec hroom).1
  rw [HeaderRegular, (liveEntries_withNewEntry hroom ((headerPacked_iff h).mp hpacked).2).1, List.forall_mem_append]
  exact ⟨hregular, by simp [hstart, hlen, hid]⟩

/-! ### The gate and the operand checks (R186, R292) -/

theorem withHeader_eq (s : State) (k : State → State) :
    s.withHeader k = if s.hdrValidated = false then ended s .notValidated 0 0 else k s := by
  cases hv : s.hdrValidated <;> simp only [State.withHeader, hv] <;> rfl

/-- An operand check: an operand out of range, else the command's effect. -/
theorem checked_eq {check : Bool} {bad : Prop} [Decidable bad] (hcheck : check = true ↔ ¬ bad) (s effect : State) :
    (if check then effect else s.raise .badOperand) = if bad then ended s .badOperand 0 0 else effect := by
  by_cases hbad : bad
  · rw [if_neg (mt hcheck.mp (not_not_intro hbad)), if_pos hbad]
    rfl
  · rw [if_pos (hcheck.mpr hbad), if_neg hbad]

theorem inDirectory_iff (k : Byte) : inDirectory k = true ↔ ¬ 64 ≤ k.toNat := decide_eq_true_iff.trans not_le.symm

theorem wordInHeader_iff (off : Word) : wordInHeader off = true ↔ ¬ (off.toNat % 4 ≠ 0 ∨ 508 < off.toNat) := by
  rw [wordInHeader, Bool.and_eq_true, decide_eq_true_iff, decide_eq_true_iff, not_or, not_not, not_lt]

/-! ### The directory commands (R180 to R183) -/

/-- Settles O47: the live count is the model's. -/
theorem hcntCountsLiveEntries : Obligations.HcntCountsLiveEntries := by
  intro s n hn
  rw [eq_liveCount_of_isLiveCount hn]
  exact congrArg Host.Outcome.next (withHeader_eq s _)

/-- Settles O48: the gate, the operand check, then the entry. -/
theorem hgetReadsEntry : Obligations.HgetReadsEntry := by
  intro s n idx hn
  rw [eq_liveCount_of_isLiveCount hn]
  exact congrArg Host.Outcome.next
    ((withHeader_eq s _).trans (if_congr Iff.rfl rfl (checked_eq (inDirectory_iff idx) s _)))

/-- `HNEW` (R182): the gate, a full directory, else the header with one entry more. -/
theorem exec_hnew (s : State) :
    exec .hnew s = .next
      (if s.hdrValidated = false then ended s .notValidated 0 0
      else if liveCount s.hdr = 64 then ended s .tooManyModels 0 0
      else ended { s with hdr := withNewEntry s.hdr } .ok (newEntry (freeId s.hdr)) (BitVec.ofNat 32 (liveCount s.hdr))) :=
  congrArg Host.Outcome.next (withHeader_eq s _)

/-- Settles O49: the entry is that of the least id not in use. -/
theorem hnewAllocatesLowestFreeId : Obligations.HnewAllocatesLowestFreeId := by
  intro s n hn
  obtain rfl := eq_liveCount_of_isLiveCount hn
  refine ⟨fun hv => ?_, fun hv hfull => ?_, fun hv hroom => ?_⟩
  · rw [exec_hnew, if_pos hv]
  · rw [exec_hnew, if_neg (ne_false_of_eq_true hv), if_pos hfull]
  · obtain ⟨hlt, hfree, hbelow⟩ := freeId_spec hroom
    refine ⟨freeId s.hdr, hlt, fun j hj hid => hfree (mem_usedIds.mpr ⟨j, hj, hid⟩),
      fun k hk => mem_usedIds.mp (hbelow k hk), ?_⟩
    have hfits : 4 + 4 * liveCount s.hdr + 4 ≤ 512 := by omega
    dsimp only
    rw [exec_hnew, if_neg (ne_false_of_eq_true hv), if_neg hroom.ne, ← newEntry_eq, ← blockSetWord_eq_putWord _ _ hfits]
    rfl

/-- The first live entry with an id, as `HDEL` searches it (R183). -/
def entryWithId (h : Block) (id : Nat) : Option Nat := (liveEntries h).findIdx? fun w => entryId w = id

theorem entryWithId_eq_some {h : Block} {id j : Nat} :
    entryWithId h id = some j ↔
      j < liveCount h ∧ idOf (entryNat h j) = id ∧ ∀ k < j, idOf (entryNat h k) ≠ id := by
  simp only [entryWithId, List.findIdx?_eq_some_iff_getElem, getElem_liveEntries, entryId_headerEntry, decide_eq_true_iff,
    exists_prop, liveCount, ne_eq]

theorem entryWithId_eq_none {h : Block} {id : Nat} :
    entryWithId h id = none ↔ ∀ j < liveCount h, idOf (entryNat h j) ≠ id := by
  simp only [entryWithId, List.findIdx?_eq_none_iff, List.forall_mem_iff_getElem, getElem_liveEntries, entryId_headerEntry,
    decide_eq_false_iff_not, liveCount, ne_eq]

/-- `HDEL` (R183): the gate, the operand check, then what the search answers. -/
theorem exec_hdel (id : Byte) (s : State) :
    exec (.hdel id) s = .next
      (if s.hdrValidated = false then ended s .notValidated 0 0
      else if 64 ≤ id.toNat then ended s .badOperand 0 0
      else removeFound (entryWithId s.hdr id.toNat) s) :=
  congrArg Host.Outcome.next
    ((withHeader_eq s _).trans (if_congr Iff.rfl rfl (checked_eq (inDirectory_iff id) s _)))

/-- Settles O50: the search answers the least index, and the entries left are one fewer. -/
theorem hdelRemovesFirstEntryWithId : Obligations.HdelRemovesFirstEntryWithId := by
  intro s n id hn
  obtain rfl := eq_liveCount_of_isLiveCount hn
  refine ⟨fun hv => ?_, fun hv hbad => ?_, fun hv hid habsent => ?_, fun hv hid j hj hat hbefore => ?_⟩
  · rw [exec_hdel, if_pos hv]
  · rw [exec_hdel, if_neg (ne_false_of_eq_true hv), if_pos hbad]
  · rw [exec_hdel, if_neg (ne_false_of_eq_true hv), if_neg (not_le.mpr hid), entryWithId_eq_none.mpr habsent]
    rfl
  · rw [exec_hdel, if_neg (ne_false_of_eq_true hv), if_neg (not_le.mpr hid), entryWithId_eq_some.mpr ⟨hj, hat, hbefore⟩,
      ← removeEntry_eq_entryRemoved _ (hj.trans_le (liveCount_le _)), ← liveCount_removeEntry hj]
    rfl

/-! ### The directory's properties (R189) -/

/-- All that `HNEW` can do to the header. -/
theorem hdr_of_exec_hnew {s t : State} (h : exec .hnew s = .next t) :
    t.hdr = s.hdr ∨ liveCount s.hdr < 64 ∧ t.hdr = withNewEntry s.hdr := by
  rw [exec_hnew, Host.Outcome.next.injEq] at h
  subst h
  split
  · exact .inl rfl
  split
  · exact .inl rfl
  · next hfull => exact .inr ⟨lt_of_le_of_ne (liveCount_le _) hfull, rfl⟩

/-- All that `HDEL` can do to the header. -/
theorem hdr_of_exec_hdel {s t : State} {id : Byte} (h : exec (.hdel id) s = .next t) :
    t.hdr = s.hdr ∨ ∃ j < liveCount s.hdr, t.hdr = removeEntry s.hdr j := by
  rw [exec_hdel, Host.Outcome.next.injEq] at h
  subst h
  split
  · exact .inl rfl
  split
  · exact .inl rfl
  · cases hfound : entryWithId s.hdr id.toNat with
    | none => exact .inl rfl
    | some j => exact .inr ⟨j, (entryWithId_eq_some.mp hfound).1, rfl⟩

/-- Settles O52: an entry appended or taken out leaves a packed header. -/
theorem directoryStaysPacked : Obligations.DirectoryStaysPacked := by
  obtain ⟨hlive, hpast⟩ := liveEntries_zeroBlock
  have hpacked : HeaderPacked zeroBlock := by
    rw [headerPacked_iff, usedIds, hlive, hpast]
    exact ⟨List.nodup_nil, fun _ => List.eq_of_mem_replicate⟩
  have hregular : HeaderRegular zeroBlock := by
    rw [HeaderRegular, hlive]
    nofun
  refine ⟨hpacked, hregular, fun s t i hs hi h => ?_⟩
  rcases hi with rfl | ⟨id, rfl⟩
  · rcases hdr_of_exec_hnew h with heq | ⟨hroom, heq⟩ <;> rw [heq]
    · exact ⟨hs, fun hreg => hreg⟩
    · exact ⟨headerPacked_withNewEntry hroom hs, headerRegular_withNewEntry hroom hs⟩
  · rcases hdr_of_exec_hdel h with heq | ⟨j, hj, heq⟩ <;> rw [heq]
    · exact ⟨hs, fun hreg => hreg⟩
    · exact ⟨headerPacked_removeEntry hj hs, headerRegular_removeEntry hj⟩

/-! ### Word access, `HINIT`, `HCLR`, `HSUM` (R175 to R177, R184, R185) -/

/-- Settles O51: an aligned word up to 508 lies in the buffer. -/
theorem headerWordAccess : Obligations.HeaderWordAccess := by
  intro s off val
  refine ⟨congrArg Host.Outcome.next (checked_eq (wordInHeader_iff off) s _),
    congrArg Host.Outcome.next ((checked_eq (wordInHeader_iff off) s _).trans ?_)⟩
  split
  · rfl
  · have hfits : off.toNat + 4 ≤ 512 := by omega
    rw [← blockSetWord_eq_putWord _ val hfits]
    rfl

/-- Settles O42: the store sets byte 0. -/
theorem hinitSetsVersion : Obligations.HinitSetsVersion := by
  intro s
  rw [← blockSetByte_eq_gen _ _ (by decide)]
  rfl

/-- Settles O43: the command is its update. -/
theorem hclrZeroesHeader : Obligations.HclrZeroesHeader := fun _ => rfl

/-- The header with its checksum stored, in the claims' words (R177, R179). -/
theorem withChecksum_eq_putWord (c : Checksum) (h : Block) : withChecksum c h = putWord h 508 (headerSum c h) :=
  blockSetWord_eq_putWord h _ (by decide)

/-- Settles O44: the checksum is a word write at 508. -/
theorem hsumStoresChecksum : Obligations.HsumStoresChecksum := by
  intro s
  rw [← withChecksum_eq_putWord]
  rfl

/-- Settles O54: the check value is computed. -/
theorem checksumCheckValue : Obligations.ChecksumCheckValue := by
  unfold Obligations.ChecksumCheckValue
  decide +kernel

/-! ### `HVAL` (R174, R188) -/

/-- `HVAL`, its three tests in order (R174, R295). -/
theorem exec_hval (s : State) :
    exec .hval s = .next
      (if blockByte s.hdr 0 = 0 then ended { s with hdrValidated := false } .hdrMissing 0 0
      else if blockByte s.hdr 0 ≠ s.cfg.supportedVersion then
        ended { s with hdrValidated := false } .hdrVersion ((blockByte s.hdr 0).setWidth 32) 0
      else if getWord s.hdr 508 ≠ (headerSum s.cfg.crc s.hdr).toNat then
        ended { s with hdrValidated := false } .hdrChecksum (headerSum s.cfg.crc s.hdr) 0
      else ended { s with hdrValidated := true, mounted := true } .ok (BitVec.ofNat 32 (liveCount s.hdr))
        ((blockByte s.hdr 0).setWidth 32)) := by
  have hsum : storedChecksum s.hdr ≠ cksum s.cfg.crc s.hdr ↔ getWord s.hdr 508 ≠ (headerSum s.cfg.crc s.hdr).toNat := by
    rw [← blockWord_toNat]
    exact BitVec.toNat_ne
  exact congrArg Host.Outcome.next (if_congr Iff.rfl rfl (if_congr Iff.rfl rfl (if_congr hsum rfl rfl)))

theorem flipBit_ne (x : Byte) {b : Nat} (hb : b < 8) : flipBit x b ≠ x := by
  intro h
  have hbit := congrArg (fun y : Byte => y.getLsbD b) h
  simp [flipBit, hb] at hbit

theorem blockByte_flipped (h : Block) (p b : Nat) {j : Nat} (hj : j < 512) :
    blockByte (flipped h p b) j = if j = p then flipBit (blockByte h j) b else blockByte h j := blockByte_gen _ hj

theorem blockByte_flipped_of_ne (h : Block) {p j : Nat} (b : Nat) (hj : j < 512) (hne : j ≠ p) :
    blockByte (flipped h p b) j = blockByte h j := by
  rw [blockByte_flipped h p b hj, if_neg hne]

theorem headerSum_eq (c : Checksum) (h : Block) : headerSum c h = crc32Cksum c (checksumMessage h) := rfl

theorem getElem?_checksumMessage (h : Block) {q : Nat} (hq : q < 256) :
    (checksumMessage h)[q + 1]? = some (blockByte h (4 + q)) := by simp [checksumMessage, hq]

/-- A flip in the entries is a flip in the message the checksum covers (R173). -/
theorem checksumMessage_flipped (h : Block) {q : Nat} (b : Nat) (hq : q < 256) :
    checksumMessage (flipped h (4 + q) b) = (checksumMessage h).set (q + 1) (flipBit (blockByte h (4 + q)) b) := by
  rw [checksumMessage, checksumMessage, List.set_cons_succ, blockByte_flipped_of_ne h b (by omega) (by omega)]
  refine congrArg (List.cons _) (List.ext_getElem (by simp) fun i hi _ => ?_)
  have hi : i < 256 := by simpa using hi
  rw [List.getElem_set, List.getElem_map, List.getElem_map, List.getElem_range, blockByte_flipped h _ b (by omega)]
  by_cases hiq : q = i
  · rw [if_pos (by omega), if_pos hiq, hiq]
  · rw [if_neg (by omega), if_neg hiq]

/-- A function that detects single-bit changes detects one at any place of a message. -/
theorem DetectsFlips.set_ne {c : Checksum} (hc : DetectsFlips c) {msg : List Byte} {i b : Nat} {x : Byte}
    (hx : msg[i]? = some x) (hb : b < 8) : crc32Cksum c (msg.set i (flipBit x b)) ≠ crc32Cksum c msg := by
  obtain ⟨hi, rfl⟩ := List.getElem?_eq_some_iff.mp hx
  have hsame : msg.take i ++ msg[i] :: msg.drop (i + 1) = msg := by
    rw [List.getElem_cons_drop, List.take_append_drop]
  rw [List.set_eq_take_append_cons_drop, if_pos hi]
  exact fun h => hc _ _ _ b hb (h.trans (congrArg _ hsame.symm))

/-- A flip in the entries changes the checksum (R188). -/
theorem headerSum_flipped_ne {c : Checksum} (hc : DetectsFlips c) (h : Block) {p b : Nat} (hp : 4 ≤ p) (hp' : p < 260)
    (hb : b < 8) : headerSum c (flipped h p b) ≠ headerSum c h := by
  obtain ⟨q, rfl⟩ := Nat.exists_eq_add_of_le hp
  have hq : q < 256 := by omega
  rw [headerSum_eq, headerSum_eq, checksumMessage_flipped h b hq]
  exact hc.set_ne (getElem?_checksumMessage h hq) hb

/-- A flip before the checksum field leaves it (R170). -/
theorem getWord_flipped (h : Block) {p : Nat} (b : Nat) (hp : p < 508) : getWord (flipped h p b) 508 = getWord h 508 := by
  rw [getWord, getWord, blockByte_flipped_of_ne h b (by omega) (by omega), blockByte_flipped_of_ne h b (by omega) (by omega),
    blockByte_flipped_of_ne h b (by omega) (by omega), blockByte_flipped_of_ne h b (by omega) (by omega)]

/-- Settles O40: a flip in the entries comes to the third test, one in the version byte to the first or the second. -/
theorem hvalChecksHeader : Obligations.HvalChecksHeader := by
  constructor
  · intro s n hn
    rw [eq_liveCount_of_isLiveCount hn]
    exact exec_hval s
  · intro s p b hc hb hversion hsum
    refine ⟨fun hp hp' hsupported => ?_, ?_⟩
    · have hbyte : blockByte (flipped s.hdr p b) 0 = s.cfg.supportedVersion :=
        (blockByte_flipped_of_ne s.hdr b (by omega) (by omega)).trans hversion
      have hwrong : getWord (flipped s.hdr p b) 508 ≠ (headerSum s.cfg.crc (flipped s.hdr p b)).toNat := by
        rw [getWord_flipped s.hdr b (by omega), hsum]
        exact (BitVec.toNat_ne.mp (headerSum_flipped_ne hc s.hdr hp hp' hb)).symm
      rw [exec_hval, if_neg (hbyte ▸ hsupported), if_neg (not_not_intro hbyte), if_pos hwrong]
    · rintro rfl
      have hbyte : blockByte (flipped s.hdr 0 b) 0 ≠ s.cfg.supportedVersion := by
        rw [blockByte_flipped s.hdr 0 b (by omega), if_pos rfl, hversion]
        exact flipBit_ne _ hb
      rw [exec_hval, if_pos (c := blockByte _ _ ≠ _) hbyte]

/-! ### The header's transactions (R178, R179, R206, R207) -/

theorem freeBlocks_one (s : State) : s.freeBlocks 1 = [freeBlock s.draws] := rfl

theorem deliver_headerRead (s : State) (b : Block) : s.deliver headerRead [b] = { s with hdr := b } := rfl

/-- A failed read of the header leaves a free value in the header buffer (U2; log entry 2). -/
theorem spoilBuffer_headerRead (s : State) :
    s.spoilBuffer headerRead = { s with hdr := freeBlock s.draws, draws := s.draws + 1 } := by
  change { s.deliver headerRead (s.freeBlocks 1) with draws := s.draws + 1 } = _
  rw [freeBlocks_one, deliver_headerRead]

/-- A read of the header the device acknowledges: block 0 is in the header buffer (R178, R206). -/
theorem await_headerRead_ok {s : State} {rest : List Input} (k : State → State) (hin : s.inputs = .device .ok :: rest) :
    s.await headerRead k = k
      { s with
        hdr := Memory.readBlock s.medium 0
        devLog := s.devLog ++ [⟨.rd, 0, 1, [], .ok⟩]
        inputs := rest } :=
  await_ok k hin

/-- A write of the header the device acknowledges: the header buffer is in block 0 (R179, R207). -/
theorem await_headerWrite_ok {s : State} {rest : List Input} (c : Word) (k : State → State)
    (hin : s.inputs = .device .ok :: rest) :
    s.await (headerWrite c) k = k
      { s with
        medium := Memory.writeBlock s.medium 0 s.hdr
        devLog := s.devLog ++ [⟨.wr, 0, 1, [s.hdr], .ok⟩]
        inputs := rest } :=
  await_ok k hin

/-- A read of the header that fails or is cancelled: the header buffer is free (R206; log entries 2 and 1). -/
theorem await_headerRead_failsWith {s : State} {x : Input} {rep : Reply} {rest : List Input} (k : State → State)
    (hin : s.inputs = x :: rest) (hx : failsWith x rep) :
    s.await headerRead k = endedBy
      { s with
        hdr := freeBlock s.draws
        draws := s.draws + 1
        devLog := s.devLog ++ [⟨.rd, 0, 1, [], rep⟩]
        inputs := rest } rep := by
  rw [State.await, reply_failsWith hin hx, spoilBuffer_headerRead]
  exact settle_eq_endedBy hx _ k

/-- A write of the header that fails or is cancelled: block 0 is free (R207, R211(c); log entries 3 and 1). -/
theorem await_headerWrite_failsWith {s : State} {x : Input} {rep : Reply} {rest : List Input} (c : Word)
    (k : State → State) (hin : s.inputs = x :: rest) (hx : failsWith x rep) :
    s.await (headerWrite c) k = endedBy
      { s with
        medium := Memory.writeBlock s.medium 0 (freeBlock s.draws)
        draws := s.draws + 1
        devLog := s.devLog ++ [⟨.wr, 0, 1, [s.hdr], rep⟩]
        inputs := rest } rep := by
  rw [State.await, reply_failsWith hin hx]
  exact settle_eq_endedBy hx _ k

/-- `HWB` past its gate: the checksum stored, then the write (R179). -/
theorem exec_hwb {s : State} (hv : s.hdrValidated = true) :
    exec .hwb s = .next (State.await { s with hdr := putWord s.hdr 508 (headerSum s.cfg.crc s.hdr) }
      (headerWrite (headerSum s.cfg.crc s.hdr)) fun t => t.ret (headerSum s.cfg.crc s.hdr) 0) := by
  rw [← withChecksum_eq_putWord]
  exact congrArg Host.Outcome.next (if_pos hv)

/-- Settles O39: the read fills the header buffer. -/
theorem hldLoadsHeader : Obligations.HldLoadsHeader := fun s _ hin =>
  congrArg Host.Outcome.next (await_headerRead_ok (s := { s with hdrValidated := false, mounted := false }) _ hin)

/-- Settles O45: the write puts the header buffer into block 0. -/
theorem hwbWritesHeader : Obligations.HwbWritesHeader := fun s _ hv hin =>
  (exec_hwb hv).trans (congrArg Host.Outcome.next
    (await_headerWrite_ok (s := { s with hdr := putWord s.hdr 508 (headerSum s.cfg.crc s.hdr) }) _ _ hin))

/-- Settles O46: the failing read spoils the header buffer, the failing write block 0. -/
theorem headerTransferFails : Obligations.HeaderTransferFails := fun s _ _ _ hin hx =>
  ⟨congrArg Host.Outcome.next
      (await_headerRead_failsWith (s := { s with hdrValidated := false, mounted := false }) _ hin hx),
    fun hv => (exec_hwb hv).trans (congrArg Host.Outcome.next
      (await_headerWrite_failsWith (s := { s with hdr := putWord s.hdr 508 (headerSum s.cfg.crc s.hdr) }) _ _ hin hx))⟩

/-- Bytes before the checksum field keep their value when it is stored (R177). -/
theorem blockByte_withChecksum (c : Checksum) (h : Block) {p : Nat} (hp : p < 508) :
    blockByte (withChecksum c h) p = blockByte h p := by
  rw [withChecksum, blockByte_setWord _ _ _ (by decide), if_neg (by omega)]

theorem liveCount_withChecksum (c : Checksum) (h : Block) : liveCount (withChecksum c h) = liveCount h := by
  have hentries : headerEntries (withChecksum c h) = headerEntries h :=
    List.map_congr_left fun j hj => blockWord_congr fun i hi =>
      blockByte_withChecksum c h (by have := List.mem_range.mp hj; simp only [maxModels] at this; omega)
  rw [liveCount, liveEntries, hentries]
  rfl

/-- A header with its checksum stored passes the third test of `HVAL` (R174, R179). -/
theorem getWord_withChecksum (c : Checksum) (h : Block) :
    getWord (withChecksum c h) 508 = (headerSum c (withChecksum c h)).toNat := by
  obtain ⟨hstored, hkept⟩ := storedChecksum_withChecksum c h
  rw [← blockWord_toNat]
  exact congrArg BitVec.toNat (hstored.trans hkept)

/-- Settles O53: the block written is the block read, and it holds its own checksum. -/
theorem headerWriteThenLoadRoundTrip : Obligations.HeaderWriteThenLoadRoundTrip := by
  intro s n rest hv hversion hsupported hn hin
  obtain rfl := eq_liveCount_of_isLiveCount hn
  have hwrite := hwbWritesHeader s _ hv hin
  rw [← withChecksum_eq_putWord] at hwrite
  refine ⟨_, _, _, hwrite, hldLoadsHeader _ rest rfl, exec_hval _, ?_⟩
  have hread : Memory.readBlock (Memory.writeBlock s.medium 0 (withChecksum s.cfg.crc s.hdr)) 0 = withChecksum s.cfg.crc s.hdr :=
    readBlock_writeBlock_same _ _ _
  have hbyte : blockByte (withChecksum s.cfg.crc s.hdr) 0 = s.cfg.supportedVersion :=
    (blockByte_withChecksum _ _ (by omega)).trans hversion
  simp only [ended, hread]
  rw [if_neg (hbyte ▸ hsupported), if_neg (not_not_intro hbyte), if_neg (not_not_intro (getWord_withChecksum _ _))]
  exact ⟨rfl, rfl, by rw [liveCount_withChecksum], by rw [hbyte], fun p hp => blockByte_withChecksum _ _ hp⟩

end Sys2Proof.Machine

/-! # The end of a wait (R205 to R209, R211, R212, R295, R300)

A wait ends by a reply and the state the transaction left. Every success gives the reply of a plain acknowledgement
(`reply_isSuccess`). After any other reply the command raises its error and a host sequence that waited for it ends too
(`step_failed`), with what the request covers spoiled and everything else kept (`RequestFrame`). -/

namespace Sys2Proof.Machine

open Sys2Proof Sys2Proof.Claims

/-! ### Success (R206, R207, R212) -/

/-- An answer that is a success moves the request's data (R206(a), R207(a), R212). -/
theorem answer_of_success {s : State} {r : Request} {a : DevAnswer}
    (ha : a = .ok ∨ (a = .ideal ∧ r.blk.toNat + r.cnt ≤ s.cfg.devBlocks)) :
    s.answer r a = (.ok, (s.logged r .ok).transfer r) := by
  rcases ha with rfl | ⟨rfl, hfits⟩
  · rfl
  · exact if_pos hfits

/-- Every success ends a wait as a plain acknowledgement does; a `CTRL` store of neither bit does nothing (R46). -/
theorem reply_isSuccess {s : State} {r : Request} {x : Input} (hx : isSuccess s r x) (rest : List Input) :
    State.reply { s with inputs := x :: rest } r =
      some (.ok, (State.logged { s with inputs := rest } r .ok).transfer r) := by
  obtain ⟨a, ha, rfl | ⟨v, hcancel, hreset, rfl⟩⟩ := hx
  · exact congrArg some (answer_of_success (s := { s with inputs := rest }) ha)
  · have hcancel : ctrlCancel v = false := hcancel
    have hreset : ctrlReset v = false := hreset
    simpa [State.reply, hcancel, hreset] using answer_of_success (s := { s with inputs := rest }) ha

/-- The step that ends a wait: the command goes on or ends, and then the host sequence (R15, R101). -/
theorem step_of_reply {s t : State} {r : Request} {rep : Reply} (hs : s.seq = .wait r) (hr : s.reply r = some (rep, t)) :
    step s = (settle rep { t with seq := .run } (resume r.cont)).continueSequence := by
  simp only [step, State.advance, hs, hr]

/-- Settles O10: the reply is that of a plain acknowledgement (`reply_isSuccess`), and nothing else of the input is seen. -/
theorem successfulAnswersAgree : Obligations.SuccessfulAnswersAgree := by
  intro s r x rest hx
  refine ⟨fun k => ?_, fun hs => ?_⟩
  · rw [State.await, reply_isSuccess hx]
    rfl
  · have hok : isSuccess s r (.device .ok) := ⟨.ok, .inl rfl, .inl rfl⟩
    have hstep (y : Input) (hy : isSuccess s r y) :=
      step_of_reply (s := { s with inputs := y :: rest }) hs (reply_isSuccess hy rest)
    exact (hstep x hx).trans (hstep _ hok).symm

/-! ### What a request that did not succeed leaves (R206, R207, R211) -/

/-- From `s` to `t` only what request `r` covers has changed: of a write its blocks of the medium, of a read its buffer. -/
structure RequestFrame (r : Request) (s t : State) : Prop where
  writeBuffers : r.kind = .wr → t.slots = s.slots ∧ t.hdr = s.hdr
  writeMedium : r.kind = .wr → ∀ a, (a < 512 * r.blk.toNat ∨ 512 * (r.blk.toNat + r.cnt) ≤ a) →
    Memory.read t.medium a = Memory.read s.medium a
  readMedium : r.kind = .rd → t.medium = s.medium
  readSlots : r.kind = .rd → ∀ i, r.buf = .slots i → t.hdr = s.hdr ∧ ∀ j, j < i ∨ i + r.cnt ≤ j → t.slot j = s.slot j
  readHeader : r.kind = .rd → r.buf = .header → t.slots = s.slots

theorem deliver_hdr {s : State} {r : Request} {i : Nat} (hbuf : r.buf = .slots i) (bs : List Block) :
    (s.deliver r bs).hdr = s.hdr := by
  rw [State.deliver, hbuf]
  change (s.fillSlots i bs).hdr = s.hdr
  rw [fillSlots_fields]

theorem deliver_slots {s : State} {r : Request} (hbuf : r.buf = .header) (bs : List Block) :
    (s.deliver r bs).slots = s.slots := by
  rw [State.deliver, hbuf]

theorem spoilBuffer_of_wr (s : State) {r : Request} (hk : r.kind = .wr) : s.spoilBuffer r = s := by
  rw [State.spoilBuffer, hk]

theorem spoilBuffer_of_rd (s : State) {r : Request} (hk : r.kind = .rd) :
    s.spoilBuffer r = { s.deliver r (s.freeBlocks r.cnt) with draws := s.draws + r.cnt } := by
  rw [State.spoilBuffer, hk]

theorem spoilMedium_of_rd (s : State) {r : Request} (hk : r.kind = .rd) : s.spoilMedium r = s := by
  rw [State.spoilMedium, hk]

theorem spoilMedium_hdr (s : State) (r : Request) : (s.spoilMedium r).hdr = s.hdr := by
  unfold State.spoilMedium
  split <;> rfl

/-- Spoiling the medium changes the blocks of a write alone (R211(c), R211(d)). -/
theorem read_spoilMedium (s : State) {r : Request} {a : Nat}
    (ha : a < 512 * r.blk.toNat ∨ 512 * (r.blk.toNat + r.cnt) ≤ a) :
    Memory.read (s.spoilMedium r).medium a = Memory.read s.medium a := by
  unfold State.spoilMedium
  split
  case h_1 => rfl
  case h_2 =>
    have hlen : (s.freeBlocks r.cnt).length = r.cnt := by simp [State.freeBlocks]
    exact read_writeBlocks_other _ _ _ (hlen.symm ▸ ha)

theorem spoilBuffer_frame (s : State) (r : Request) : RequestFrame r s (s.spoilBuffer r) where
  writeBuffers hk := by rw [spoilBuffer_of_wr s hk]; exact ⟨rfl, rfl⟩
  writeMedium _ _ _ := by rw [spoilBuffer_medium]
  readMedium _ := spoilBuffer_medium s r
  readSlots hk i hbuf := by
    refine ⟨?_, fun j hj => slot_spoilBuffer fun _ i' hbuf' => ?_⟩
    · rw [spoilBuffer_of_rd s hk]
      exact deliver_hdr hbuf _
    · cases hbuf.symm.trans hbuf'
      exact hj
  readHeader hk hbuf := by
    rw [spoilBuffer_of_rd s hk]
    exact deliver_slots hbuf _

/-- The medium may be spoiled too. -/
theorem RequestFrame.spoilMedium {r : Request} {s t : State} (h : RequestFrame r s t) :
    RequestFrame r s (t.spoilMedium r) where
  writeBuffers hk := by rw [spoilMedium_slots, spoilMedium_hdr]; exact h.writeBuffers hk
  writeMedium hk a ha := (read_spoilMedium t ha).trans (h.writeMedium hk a ha)
  readMedium hk := by rw [spoilMedium_of_rd t hk]; exact h.readMedium hk
  readSlots hk := by rw [spoilMedium_of_rd t hk]; exact h.readSlots hk
  readHeader hk := by rw [spoilMedium_of_rd t hk]; exact h.readHeader hk

/-- The input taken and the transaction noted are no part of the frame, and the buffer is the request's (U2). -/
theorem loggedSpoilBuffer_frame (s : State) (r : Request) (rep : Reply) (rest : List Input) :
    RequestFrame r s ((State.logged { s with inputs := rest } r rep).spoilBuffer r) :=
  { spoilBuffer_frame (State.logged { s with inputs := rest } r rep) r with }

/-- How a cancel ends the wait (R209, R211(c), R211(d)). -/
theorem reply_isCancel {s : State} {r : Request} {x : Input} {rest : List Input} (hin : s.inputs = x :: rest)
    (hx : isCancel x) : ∃ u, s.reply r = some (.cancelled, u) ∧ RequestFrame r s u :=
  ⟨_, reply_failsWith hin (.inr ⟨hx, rfl⟩), (loggedSpoilBuffer_frame s r .cancelled rest).spoilMedium⟩

/-- How a failing answer ends the wait; the ideal mock device leaves the medium alone (R205, R211, R212). -/
theorem reply_isFailure {s : State} {r : Request} {a : DevAnswer} {e : Word} {rest : List Input}
    (hin : s.inputs = .device a :: rest) (ha : isFailure s r a e) :
    ∃ u, s.reply r = some (.err e, u) ∧ RequestFrame r s u ∧ (a = .ideal → u.medium = s.medium) := by
  rcases ha with rfl | ⟨rfl, rfl, hpast⟩
  · exact ⟨_, reply_failsWith hin (.inl ⟨e, rfl, rfl⟩), (loggedSpoilBuffer_frame s r (.err e) rest).spoilMedium, nofun⟩
  · have hanswer : State.answer { s with inputs := rest } r .ideal =
        (.err 1, (State.logged { s with inputs := rest } r (.err 1)).spoilBuffer r) := if_neg (not_le.mpr hpast)
    exact ⟨_, (reply_device hin).trans (congrArg some hanswer), loggedSpoilBuffer_frame s r (.err 1) rest,
      fun _ => spoilBuffer_medium _ r⟩

/-! ### The end of the command and of its host sequence (R284, R286, R297, R300) -/

/-- What the host has as the result of a sequence once the command it may wait for has ended with error `e` (R300). -/
def State.resultAfterError (s : State) (e : Err) : HostResult :=
  match s.job with
  | none => s.hostResult
  | some j => seqError j.seq e

theorem resultAfterError_none {s : State} (hjob : s.job = none) (e : Err) : s.resultAfterError e = s.hostResult := by
  rw [State.resultAfterError, hjob]

theorem resultAfterError_some {s : State} {j : Job} (hjob : s.job = some j) (e : Err) :
    s.resultAfterError e = seqError j.seq e := by
  rw [State.resultAfterError, hjob]

/-- The error of a command ends a suspended host sequence (R300). -/
theorem continueSequence_error {s : State} (hs : ∀ r, s.seq ≠ .wait r) (he : s.err ≠ .ok) :
    s.continueSequence = .next (s.withHost none (s.resultAfterError s.err)) := by
  cases hjob : s.job with
  | none =>
    rw [continueSequence_none hjob, resultAfterError_none hjob, ← hjob]
    rfl
  | some j =>
    rw [resultAfterError_some hjob, State.continueSequence, hjob]
    exact commandEnd_error hs he j.seq _ _

/-- The step that ends a wait without success: the command's report, and the end of its host sequence (R206, R207, R300). -/
theorem step_failed {s u : State} {r : Request} {rep : Reply} (hs : s.seq = .wait r) (hr : s.reply r = some (rep, u))
    (hrep : rep ≠ .ok) :
    step s = .next ((endedBy u rep).withHost none (s.resultAfterError (endedBy u rep).err)) := by
  have hresult (e : Err) : u.resultAfterError e = s.resultAfterError e := by
    rw [State.resultAfterError, (reply_same hr).job, (reply_same hr).hostResult]
    rfl
  rw [step_of_reply hs hr, ← hresult]
  cases rep with
  | ok => exact absurd rfl hrep
  | err e => exact continueSequence_error (s := endedIo u e) nofun nofun
  | cancelled => exact continueSequence_error (s := ended u .cancelled 0 0) nofun nofun

theorem reply_inputs {s u : State} {r : Request} {rep : Reply} {x : Input} {rest : List Input}
    (hin : s.inputs = x :: rest) (hr : s.reply r = some (rep, u)) : u.inputs = rest := by
  obtain ⟨y, rest', hin', hu⟩ := reply_takes hr
  obtain ⟨-, rfl⟩ := List.cons.inj (hin.symm.trans hin')
  exact congrArg State.inputs hu

theorem seqError_cancelled (q : HostSeq) : seqError q .cancelled = .err .cancelled := by
  unfold seqError
  split
  · exact if_pos rfl
  · rfl

theorem seqError_io (q : HostSeq) : seqError q .io = if q = .fsNew then .initError .io else .err .io := by
  unfold seqError
  split
  case h_1 => rfl
  case h_2 hq => exact (if_neg hq).symm

/-- A cancel is no `InitError` (log entry 25). -/
theorem resultAfterError_cancelled (s : State) :
    s.resultAfterError .cancelled = if s.job.isSome then .err .cancelled else s.hostResult := by
  cases hjob : s.job with
  | none => exact resultAfterError_none hjob _
  | some j => exact (resultAfterError_some hjob _).trans (seqError_cancelled j.seq)

/-! ### The obligations -/

/-- Settles O11: the reply is `CANCELLED` (`reply_isCancel`), whatever answer stands beside the store. -/
theorem cancelEndsWait : Obligations.CancelEndsWait := by
  intro s r x rest hs hin hx
  obtain ⟨u, hr, hframe⟩ := reply_isCancel (r := r) hin hx
  have hsame := reply_same hr
  have hinputs := reply_inputs hin hr
  exact ⟨_, step_failed hs hr nofun, hinputs, rfl, rfl, rfl, rfl, rfl, rfl, hsame.errInfo, hsame.view,
    hsame.hdrValidated, hsame.cmd0, hsame.cmd1, hsame.cmd2, hsame.ovr, hsame.file, hsame.cfg, hsame.mounted, rfl,
    resultAfterError_cancelled s, hsame.count, hsame.tags,
    fun hk => ⟨(hframe.writeBuffers hk).1, (hframe.writeBuffers hk).2, hframe.writeMedium hk⟩,
    fun hk => ⟨hframe.readMedium hk, hframe.readSlots hk, hframe.readHeader hk⟩⟩

/-- Settles O13: the reply is the error with the device's code (`reply_isFailure`). -/
theorem deviceErrorEndsWait : Obligations.DeviceErrorEndsWait := by
  intro s r a e rest hs hin ha
  obtain ⟨u, hr, hframe, hideal⟩ := reply_isFailure hin ha
  have hsame := reply_same hr
  have hinputs := reply_inputs hin hr
  exact ⟨_, step_failed hs hr nofun, hinputs, rfl, rfl, rfl, rfl, rfl, rfl, rfl, hsame.view,
    hsame.hdrValidated, hsame.cmd0, hsame.cmd1, hsame.cmd2, hsame.ovr, hsame.file, hsame.cfg, hsame.mounted, rfl,
    fun hjob => resultAfterError_none hjob _, fun j hjob => (resultAfterError_some hjob _).trans (seqError_io j.seq),
    hsame.count, hsame.tags,
    fun hk => ⟨(hframe.writeBuffers hk).1, (hframe.writeBuffers hk).2, hideal, hframe.writeMedium hk⟩,
    fun hk => ⟨hframe.readMedium hk, hframe.readSlots hk, hframe.readHeader hk⟩⟩

end Sys2Proof.Machine

/-! # Host sequences called while the host is idle (R101, R224) -/

namespace Sys2Proof.Machine

open Sys2Proof Sys2Proof.Claims

/-! ### The call (R101, R322) -/

/-- A sequence called while no command is in execution and none is suspended is run from its beginning (R101, R322). -/
theorem step_call {s : State} {q : HostSeq} {rest : List Input} (hs : s.seq = .idle) (hbusy : s.busy = false)
    (hjob : s.job = none) (hin : s.inputs = .call q :: rest) : step s = runSequence q { s with inputs := rest } := by
  rcases step_cases s with ⟨r, rep, t, hwait, -⟩ | ⟨-, hstep⟩
  · exact not_wait_of_idle hs hwait
  · rw [hstep, State.takeInput, hin]
    simp [State.call, hbusy, hjob]

/-! ### `File.seek` (R224) -/

theorem fileSeek_outOfBounds {f : File} {whence : Whence} {n : Int}
    (h : seekTarget f whence n < 4 ∨ (f.len : Int) < seekTarget f whence n) :
    fileSeek whence n f = .fail .seekOutOfBounds :=
  if_pos h

/-- A candidate inside `[4, len]` is no less than 4, so its distance from the first data byte is the same in `Nat` as in
`Int`. -/
theorem fileSeek_inBounds {f : File} {whence : Whence} {n : Int}
    (h : ¬ (seekTarget f whence n < 4 ∨ (f.len : Int) < seekTarget f whence n)) :
    fileSeek whence n f =
      .keep (some { f with cursor := (seekTarget f whence n).toNat }) (.ret (.num (seekTarget f whence n - 4).toNat)) := by
  have hdist : (seekTarget f whence n).toNat - lenBytes = (seekTarget f whence n - 4).toNat :=
    (Int.toNat_sub' _ 4).symm
  rw [← hdist]
  exact if_neg h

/-- Either outcome of a seek issues no command: the step is the host's own (R224). -/
theorem step_fileSeek {s : State} {f : File} {whence : Whence} {n : Int} {rest : List Input} (hs : s.seq = .idle)
    (hbusy : s.busy = false) (hjob : s.job = none) (hfile : s.file = some f)
    (hin : s.inputs = .call (.fileSeek whence n) :: rest) :
    step s = .next
      (if seekTarget f whence n < 4 ∨ (f.len : Int) < seekTarget f whence n then
        { s with inputs := rest, hostResult := .err .seekOutOfBounds }
      else
        { s with
          inputs := rest
          file := some { f with cursor := (seekTarget f whence n).toNat }
          hostResult := .num (seekTarget f whence n - 4).toNat }) := by
  have hrun : step s =
      runProg (.fileSeek whence n) (some f) (fileSeek whence n f) [] { s with inputs := rest } := by
    rw [step_call hs hbusy hjob hin, runSequence, hfile]
    rfl
  rw [hrun]
  split
  next hout =>
    simp only [fileSeek_outOfBounds hout, runProg, State.hostDone, hjob]
  next hinside =>
    simp only [fileSeek_inBounds hinside, runProg, State.setFile, State.hostDone, hjob]

/-- Settles O60: each origin's candidate is `seekTarget` (`step_fileSeek`). -/
theorem seekMovesCursorInBounds : Obligations.SeekMovesCursorInBounds := by
  intro s f whence n rest hs hbusy hjob hfile hin
  cases whence with
  | start => exact step_fileSeek hs hbusy hjob hfile hin
  | fromEnd => exact step_fileSeek hs hbusy hjob hfile hin
  | current => exact step_fileSeek hs hbusy hjob hfile hin

end Sys2Proof.Machine

/-! # `Filesystem.new_empty` (R252, R54)

Its four commands act on the header buffer alone and none waits, so the whole sequence is one step, to the header of
`emptyHeader`. -/

namespace Sys2Proof.Machine

open Sys2Proof Sys2Proof.Claims

/-! ### A command of a sequence that ends at once (R41, R101) -/

/-- A command that a sequence issues and that ends with success hands its results on in the same step. -/
theorem runProg_command_ended {q : HostSeq} {file : Option File} {i : Instr} {k : Word × Word → Prog HostResult}
    {results : List (Word × Word)} {s t : State} {r0 r1 : Word} (hbusy : s.busy = false)
    (hexec : exec i (s.launchOf i) = .next (ended t .ok r0 r1)) :
    runProg q file (.command i k) results s =
      runProg q file (k (r0, r1)) (results ++ [(r0, r1)]) (ended t .ok r0 r1) := by
  have hdecode : decode (s.launchOf i).descriptor = .ok i := decode_encode i
  have hrun : (s.launchOf i).runCommand = .next (ended t .ok r0 r1) := by
    rw [State.runCommand, hdecode]
    exact hexec
  have hissue : s.issueCommand i = .next (ended t .ok r0 r1) := (issueCommand_idle hbusy i).trans hrun
  rw [runProg, hissue, afterStore_next]
  exact commandEnd_ok (fun _ => not_wait_of_idle rfl) rfl q _ _

/-! ### The commands that build the header (R175, R177) -/

theorem exec_hinit (s : State) :
    exec .hinit s = .next (ended { s with hdr := blockSetByte s.hdr 0 s.cfg.supportedVersion } .ok 0 0) := by
  rw [hinitSetsVersion s, blockSetByte_eq_gen _ _ (by decide)]

theorem exec_hsum (s : State) :
    exec .hsum s = .next (ended { s with hdr := withChecksum s.cfg.crc s.hdr } .ok (headerSum s.cfg.crc s.hdr) 0) := by
  rw [hsumStoresChecksum s, withChecksum_eq_putWord]

/-! ### The header it builds (R172, R252) -/

/-- The header without models of an instance: the version byte, no entry, and the checksum of both (R175 to R177). -/
def emptyHeader (c : Config) : Block := withChecksum c.crc (blockSetByte zeroBlock 0 c.supportedVersion)

theorem blockByte_emptyHeader (c : Config) {p : Nat} (hp : p < 508) :
    blockByte (emptyHeader c) p = if p = 0 then c.supportedVersion else 0 := by
  rw [emptyHeader, blockByte_withChecksum _ _ hp, blockByte_setByte _ _ _ (by decide), zeroBlock,
    blockByte_gen _ (by omega)]

theorem blockByte_zero_emptyHeader (c : Config) : blockByte (emptyHeader c) 0 = c.supportedVersion :=
  blockByte_emptyHeader c (by decide)

/-- The version byte lies before the entries (R170). -/
theorem headerEntries_setVersion (h : Block) (v : Byte) : headerEntries (blockSetByte h 0 v) = headerEntries h :=
  List.map_congr_left fun _ _ => blockWord_congr fun _ _ => by
    rw [blockByte_setByte _ _ _ (by decide), if_neg (by omega)]

theorem liveCount_emptyHeader (c : Config) : liveCount (emptyHeader c) = 0 := by
  rw [emptyHeader, liveCount_withChecksum, liveCount, liveEntries, headerEntries_setVersion]
  exact congrArg List.length liveEntries_zeroBlock.1

/-- The header passes the three tests of `HVAL`, the version being one an instance can have (R7, R174). -/
theorem exec_hval_emptyHeader {s : State} (hversion : s.cfg.supportedVersion ≠ 0) (hhdr : s.hdr = emptyHeader s.cfg) :
    exec .hval s =
      .next (ended { s with hdrValidated := true, mounted := true } .ok 0 (s.cfg.supportedVersion.setWidth 32)) := by
  have hbyte : blockByte s.hdr 0 = s.cfg.supportedVersion := by rw [hhdr, blockByte_zero_emptyHeader]
  have hsum : getWord s.hdr 508 = (headerSum s.cfg.crc s.hdr).toNat := by
    rw [hhdr]
    exact getWord_withChecksum _ _
  have hlive : liveCount s.hdr = 0 := by rw [hhdr, liveCount_emptyHeader]
  rw [exec_hval, hbyte, if_neg hversion, if_neg (not_not_intro rfl), if_neg (not_not_intro hsum), hlive]
  rfl

/-! ### The sequence (R252) -/

/-- The four commands of `Filesystem.new_empty`: the header is built and validated, the Filesystem instance exists, and the
registers report the last command, `HVAL` (R54, R252). -/
theorem runProg_fsNewEmpty {s : State} {file : Option File} (hbusy : s.busy = false) (hversion : s.cfg.supportedVersion ≠ 0) :
    runProg .fsNewEmpty file fsNewEmpty [] s = .next
      { s with
        hdr := emptyHeader s.cfg, hdrValidated := true, mounted := true
        cmd0 := (encode .hval).cmd0, cmd1 := 0, cmd2 := 0, res0 := 0, res1 := s.cfg.supportedVersion.setWidth 32
        busy := false, done := true, ovr := false, err := .ok, seq := .idle, job := none, hostResult := .done } := by
  refine (runProg_command_ended hbusy (hclrZeroesHeader _)).trans ?_
  refine (runProg_command_ended rfl (exec_hinit _)).trans ?_
  refine (runProg_command_ended rfl (exec_hsum _)).trans ?_
  refine (runProg_command_ended rfl (exec_hval_emptyHeader ?version ?header)).trans ?report
  case version => exact hversion
  case header => rfl
  case report =>
    simp only [Prog.andThen, runProg, State.hostDone, ended, State.launchOf, State.launch]
    rfl

/-- Settles O59: the step is the sequence's run, and the header's bytes are those of `emptyHeader`. -/
theorem newEmptyBuildsValidHeader : Obligations.NewEmptyBuildsValidHeader := by
  intro s rest hs hbusy hjob hfile hversion hin
  have hstep : step s = runProg .fsNewEmpty none fsNewEmpty [] { s with inputs := rest } := by
    rw [step_call hs hbusy hjob hin, runSequence, hfile]
    rfl
  have hzero : ∀ p, 1 ≤ p → p < 508 → blockByte (emptyHeader s.cfg) p = 0 := fun p hp hp' =>
    (blockByte_emptyHeader s.cfg hp').trans (if_neg (by omega))
  exact ⟨_, hstep.trans (runProg_fsNewEmpty hbusy hversion), rfl, rfl, rfl, rfl, rfl, rfl, rfl, rfl, rfl, rfl, rfl, rfl,
    blockByte_zero_emptyHeader s.cfg, hzero⟩

end Sys2Proof.Machine

/-! # Exceptions raised before any state change (R186, R292, R294)

A command with an operand check is, after its gate, an `if` on the cause of R292: `SELX` by `exec_selx_outOfRange`, the others
by the equations that settled their own obligations. -/

namespace Sys2Proof.Machine

open Sys2Proof Sys2Proof.Claims

/-- `SELX` with an operand out of range constructs no window (R123, R292). -/
theorem exec_selx_outOfRange {s : State} {len : Byte} {start : Word}
    (hbad : len.toNat = 0 ∨ s.slots.length < len.toNat ∨ 2 ^ 32 < start.toNat + len.toNat) :
    exec (.selx len start) s = .next (ended s .badOperand 0 0) := by
  have hout : ¬ s.selxInRange len start = true := fun hin => by
    obtain ⟨hpos, hlen, hend⟩ := (selxInRange_iff s len start).mp hin
    omega
  exact congrArg Host.Outcome.next (if_neg hout)

/-- Past an open gate, a command with an operand out of range ends in the branch of its operand check. -/
theorem next_badOperand_of_gateOpen {o : Host.Outcome State Fault Refusal} {gate bad : Prop} [Decidable gate] [Decidable bad]
    {closed checkFailed effect : State} (h : o = .next (if gate then closed else if bad then checkFailed else effect))
    (hopen : ¬ gate) (hbad : bad) : o = .next checkFailed := by
  rw [h, if_neg hopen, if_pos hbad]

/-- Settles O25: each command's equation, in the branch of its operand check. -/
theorem badOperandChangesNothing : Obligations.BadOperandChangesNothing := by
  intro s a b k
  have hlive := (liveCountIsFirstEmptyEntry s.hdr _).mpr rfl
  refine ⟨exec_selx_outOfRange, fun hview hbad => ?vmod, fun hview hbad => ⟨?vlb, ?vsb⟩, fun hview hbad => ⟨?vlw, ?vsw⟩,
    fun hheader hbad => ⟨?hget, ?hdel⟩, fun hbad => ⟨?hlw, ?hsw⟩⟩
  case vmod => exact next_badOperand_of_gateOpen (vmodMarksOverlappedSlots s a b) (ne_false_of_eq_true hview) hbad
  case vlb => exact next_badOperand_of_gateOpen (vlbLoadsByte s a) (ne_false_of_eq_true hview) hbad
  case vsb => exact next_badOperand_of_gateOpen (vsbStoresByte s a b) (ne_false_of_eq_true hview) hbad
  case vlw => exact next_badOperand_of_gateOpen (vlwLoadsWord s a) (ne_false_of_eq_true hview) hbad
  case vsw => exact next_badOperand_of_gateOpen (vswStoresWord s a b) (ne_false_of_eq_true hview) hbad
  case hget => exact next_badOperand_of_gateOpen (hgetReadsEntry s _ k hlive) (ne_false_of_eq_true hheader) hbad
  case hdel => exact next_badOperand_of_gateOpen (exec_hdel k s) (ne_false_of_eq_true hheader) hbad
  case hlw => rw [(headerWordAccess s a b).1, if_pos hbad]
  case hsw => rw [(headerWordAccess s a b).2, if_pos hbad]

theorem withHeader_of_notValidated {s : State} (hheader : s.hdrValidated = false) (k : State → State) :
    s.withHeader k = ended s .notValidated 0 0 :=
  (withHeader_eq s k).trans (if_pos hheader)

/-- Settles O38: the five commands begin with the same gate. -/
theorem headerGate : Obligations.HeaderGate := by
  intro s k hheader
  have hclosed (f : State → State) :
      (.next (s.withHeader f) : Host.Outcome State Fault Refusal) = .next (ended s .notValidated 0 0) :=
    congrArg _ (withHeader_of_notValidated hheader f)
  simp only [List.forall_mem_cons]
  exact ⟨hclosed _, hclosed _, hclosed _, hclosed _, hclosed _, nofun⟩

end Sys2Proof.Machine
